-- ==== Sys2Proof/Word.lean ====
section
/-! DEFINITION. The word types of IEC104-FCU. Every value of the block is an unsigned integer of a stated width
(00_scope.md section 6), so each is a bit vector. -/

namespace Sys2Proof

/-- A byte of a buffer or of a frame (00_scope.md section 6). -/
abbrev Byte := BitVec 8

/-- A sequence number, `SEQ_W` = 15 bits (R3). -/
abbrev Seq15 := BitVec 15

/-- The six control-signal flags, bit i being `FLAGS[i]` (R13). -/
abbrev Flags6 := BitVec 6

/-- A frame word: six bytes on 48 parallel wires (R27). -/
abbrev Word48 := BitVec 48

/-- A two-bit code: `ERR`, `VAR`, `enc_var`, `enc_err` (R13, R20). -/
abbrev Code2 := BitVec 2

end Sys2Proof
end

