-- ==== Sys2Proof/Syntax.lean ====
section
/-! DEFINITION. The operations of the block (`Instr`, one constructor per row of spec/opcode_table.json), what selects
them (`Stimulus`: an inbound buffer or an encode request) and the six header bytes both sides share. -/

namespace Sys2Proof

/-- The six bytes of a control header, in wire order (R10, R24, R37). The same shape holds the capture registers
`RXH[0]` to `RXH[5]` and the six bytes an encoder produces. -/
structure Header where
  start  : Byte
  length : Byte
  c1     : Byte
  c2     : Byte
  c3     : Byte
  c4     : Byte
  deriving DecidableEq, Repr

/-- The frame variants (R38, R53). -/
inductive Variant where
  | data
  | ack
  | signal
  deriving DecidableEq, Repr

/-- The sub-causes of FormatError, the one error the decoder has (R52, R83, R84). -/
inductive FormatError where
  | short
  | marker
  deriving DecidableEq, Repr

/-- The encode request: the five inputs of the encode port (R20, R47). -/
structure Request where
  var    : Code2
  send   : Seq15
  recv   : Seq15
  flags  : Flags6
  paylen : Byte
  deriving DecidableEq, Repr

/-- What selects an operation (R36, R49): an inbound buffer, with the level `ack_en` has at its commit (R63, R102), or
an encode request (R47). -/
inductive Stimulus where
  | buffer (b : List Byte) (ackEn : Bool)
  | request (r : Request)
  deriving DecidableEq, Repr

/-- The operations. Besides the operands an operation uses, a constructor carries the bits the spec says it ignores
(R44, R30, R47), so that decoding drops no bit (assumption log 11); no meaning reads those. -/
inductive Instr where
  /-- RX.SHORT (R57): the whole buffer, of fewer than six bytes. -/
  | rxShort (b : List Byte)
  /-- RX.BADMARK (R58): the first byte, which is not the marker, and the bytes after it, at least five. -/
  | rxBadmark (start : Byte) (rest : List Byte)
  /-- RX.DATA (R59): `length`, send and receive number; ignored: `c3[0]` and the bytes from offset 6; the input `ack_en`. -/
  | rxData (length : Byte) (send recv : Seq15) (c3tag : BitVec 1) (adu : List Byte) (ackEn : Bool)
  /-- RX.ACK (R60): `length` and receive number; ignored: `c1[7:2]`, `c2`, `c3[0]` and the bytes from offset 6. -/
  | rxAck (length : Byte) (recv : Seq15) (c1high : BitVec 6) (c2 : Byte) (c3tag : BitVec 1) (rest : List Byte)
  /-- RX.SIG (R61): `length` and flags; ignored: `c2`, `c3`, `c4` and the bytes from offset 6. -/
  | rxSig (length : Byte) (flags : Flags6) (c2 c3 c4 : Byte) (rest : List Byte)
  /-- ENC.DATA (R68); `enc_flags` ignored. -/
  | encData (send recv : Seq15) (flags : Flags6) (paylen : Byte)
  /-- ENC.ACK (R69); only `enc_recv` is used. -/
  | encAck (send recv : Seq15) (flags : Flags6) (paylen : Byte)
  /-- ENC.SIG (R70); only `enc_flags` is used. -/
  | encSig (send recv : Seq15) (flags : Flags6) (paylen : Byte)
  /-- ENC.RSVD (R71); every other input is ignored. -/
  | encRsvd (send recv : Seq15) (flags : Flags6) (paylen : Byte)
  /-- ACKGEN (R77), its operand the receive number of the ack frame. No encoding of its own. -/
  | ackgen (v : Seq15)
  /-- START_ACT (R51). -/
  | startAct
  /-- START_CON (R51). -/
  | startCon
  /-- STOP_ACT (R51). -/
  | stopAct
  /-- STOP_CON (R51). -/
  | stopCon
  /-- TEST_ACT (R51). -/
  | testAct
  /-- TEST_CON (R51). -/
  | testCon
  deriving DecidableEq, Repr

end Sys2Proof
end

