-- ==== Sys2Proof/Machine/State.lean ====
section
/-! DEFINITION. The state: the eleven elements of the block (R9), and beside them what stands outside the block: the
host's actions still to come, what the host has received, and the counter of the free values. All of it plain data. -/

namespace Sys2Proof.Machine

/-- The record (R13), 63 bits in seven fields. -/
structure Record where
  err   : Code2
  var   : Code2
  len   : Byte
  send  : Seq15
  recv  : Seq15
  flags : Flags6
  nrecv : Seq15
  deriving DecidableEq, Repr

/-- The complete state of the block, the eleven elements of R9 (`rxh` is six of them). `RXN` has the values 0 to 6
(R11); 7 does not exist (93_implementation_defined.md V5). -/
structure Fcu where
  rxn  : Fin 7
  rxh  : Header
  rxr  : Record
  rxrV : Bool
  akr  : Word48
  akrV : Bool
  deriving DecidableEq, Repr

/-- The input ports at one rising edge of `clk` (R20). -/
structure Pins where
  rst      : Bool
  rxValid  : Bool
  rxData   : Byte
  rxLast   : Bool
  ackEn    : Bool
  rxrReady : Bool
  ackReady : Bool
  enc      : Request
  deriving DecidableEq, Repr

/-- The output ports (R20, R22); `rxr` is the seven ports `rxr_err` to `rxr_nrecv`. -/
structure Outputs where
  rxReady  : Bool
  rxrValid : Bool
  rxr      : Record
  ackValid : Bool
  ackFrame : Word48
  encErr   : Code2
  encFrame : Word48
  deriving DecidableEq, Repr

/-- One host action, that is one atomic step of some agent (R5, R6): the steps RX.BUF and ENC (a stimulus, R63, R72),
RX.BYTE (R64), RXR.TAKE (R67), ACK.TAKE (R78), RESET (R96), and at signal level a rising clock edge with the levels of
all input ports (R21, R98). -/
inductive HostAction where
  | stimulus (x : Stimulus)
  | rxByte (d : Byte) (last ackEn : Bool)
  | takeRec
  | takeAck
  | reset
  | edge (p : Pins)
  deriving DecidableEq, Repr

/-- The hand-over groups a host action can find not enabled (R21). -/
inductive Group where
  | rxIn
  | recordOut
  | ackOut
  deriving DecidableEq, Repr

/-- What the host gets from a step (the "host gets" column of 95_test_vectors.md section 3). -/
inductive Event where
  /-- The record, all seven fields (R67). -/
  | record (r : Record)
  /-- The ack frame word (R78). -/
  | ackFrame (w : Word48)
  /-- The encoder's answer (R72). -/
  | answer (err : Code2) (frame : Word48)
  /-- The step was not enabled: nothing was transferred (R103). -/
  | held (g : Group)
  /-- The output ports as they stood at a clock edge (R22). -/
  | ports (o : Outputs)
  deriving DecidableEq, Repr

/-- The state of the machine: the block, and the model's own record of its host (assumption log 1). -/
structure State where
  fcu    : Fcu
  script : List HostAction
  got    : List Event
  fresh  : Nat
  deriving DecidableEq, Repr

/-- The faults: none. The block has no trap and its steps never fail (R63, R87, R90); errors are values in the record
(R84) or beside the encoder's answer (R85). Nothing raises a fault. -/
inductive Fault where
  deriving DecidableEq, Repr

/-- The refusals. -/
inductive Refusal where
  /-- Raised by an arm of `exec` whose instruction has no meaning yet; safe. No arm raises it now. -/
  | notModelled (mnemonic : String)
  deriving DecidableEq, Repr

/-- The block after RESET (R19): `RXN`, `RXR_V` and `AKR_V` are 0. DESIGN CHOICE (assumption log 2, unsafe): `RXH`,
`RXR` and `AKR`, which the spec leaves unspecified, are 0. -/
def Fcu.reset : Fcu :=
  { rxn := 0
    rxh := { start := 0, length := 0, c1 := 0, c2 := 0, c3 := 0, c4 := 0 }
    rxr := { err := 0, var := 0, len := 0, send := 0, recv := 0, flags := 0, nrecv := 0 }
    rxrV := false
    akr := 0
    akrV := false }

/-- The machine right after reset (R19, R99), with a host that has not acted yet. -/
def State.reset : State :=
  { fcu := Fcu.reset, script := [], got := [], fresh := 0 }

end Sys2Proof.Machine
end

