-- ==== Sys2Proof/Machine/Flags.lean ====
section
/-! DEFINITION. The flags. The block has no condition codes (R18); its only one-bit state is the two valid bits, read
here as the enabling conditions of the steps, which are also the ready and valid outputs of R22. The six bits of
`FLAGS` have their names here (R13, R51). -/

namespace Sys2Proof.Machine

/-- `rx_ready` = ¬`RXR_V` ∧ ¬`AKR_V` (R22): RX is enabled (R63, R64). -/
def rxReady (f : Fcu) : Bool := !f.rxrV && !f.akrV

/-- `RXR.TAKE` is enabled, and `rxr_valid` (R22, R67). -/
def rxrValid (f : Fcu) : Bool := f.rxrV

/-- `ACK.TAKE` is enabled, and `ack_valid` (R22, R78). -/
def ackValid (f : Fcu) : Bool := f.akrV

/-- `FLAGS` with only start-activate set (R13, R51). PRESUMED by the spec itself (G3, assumption log 15). -/
def flagStartAct : Flags6 := 0x01#6

/-- `FLAGS` with only start-confirm set (R13, R51). -/
def flagStartCon : Flags6 := 0x02#6

/-- `FLAGS` with only stop-activate set (R13, R51). -/
def flagStopAct : Flags6 := 0x04#6

/-- `FLAGS` with only stop-confirm set (R13, R51). -/
def flagStopCon : Flags6 := 0x08#6

/-- `FLAGS` with only test-activate set (R13, R51). -/
def flagTestAct : Flags6 := 0x10#6

/-- `FLAGS` with only test-confirm set (R13, R51). -/
def flagTestCon : Flags6 := 0x20#6

end Sys2Proof.Machine
end

