-- ==== Sys2Proof/Machine/Operands.lean ====
section
/-! DEFINITION. The operand forms: the constants of R3, the 15-bit packing (R42), the frame word (R27), the source's
pure decode functions (R52 to R56), the modular increment (R76) and the three frame formats an encoder produces
(R68 to R70). -/

namespace Sys2Proof.Machine

/-- `MARKER` (R3). -/
def marker : Byte := 0x68#8

/-- `HDR_SIZE` (R3): bytes in the control header. -/
def hdrSize : Nat := 6

/-- `LEN_BASE` (R3): `length` of a frame with no ADU. -/
def lenBase : Byte := 4#8

/-- `PAYLEN_MAX` (R3): the largest payload length `length` has room for. -/
def paylenMax : Byte := 251#8

/-- `FormatError` code of the record's `ERR` field (R84). -/
def formatErrorCode : FormatError → Code2
  | .short  => 1#2
  | .marker => 2#2

/-- Variant code of the record's `VAR` field (R48). -/
def variantCode : Variant → Code2
  | .data   => 0b00#2
  | .ack    => 0b01#2
  | .signal => 0b11#2

/-- The `VAR` code of a record that carries no frame, `NONE` (R48). -/
def varNone : Code2 := 0b10#2

/-- `Pack15` (R42): low byte `v[6:0] << 1`, high byte `v[14:7]`. -/
def pack15 (v : Seq15) : Byte × Byte :=
  ((v.extractLsb' 0 7).setWidth 8 <<< 1, v.extractLsb' 7 8)

/-- `Unpack15` (R42): `lo[7:1] | (hi << 7)`; `lo[0]` is not read. -/
def unpack15 (lo hi : Byte) : Seq15 :=
  (lo.extractLsb' 1 7).setWidth 15 ||| (hi.setWidth 15 <<< 7)

/-- `FrameWord` (R27): the byte at offset i in bits 8i + 7 to 8i. -/
def frameWord (h : Header) : Word48 :=
  h.start.setWidth 48 ||| (h.length.setWidth 48 <<< 8) ||| (h.c1.setWidth 48 <<< 16) |||
    (h.c2.setWidth 48 <<< 24) ||| (h.c3.setWidth 48 <<< 32) ||| (h.c4.setWidth 48 <<< 40)

/-- `FrameBytes` (R27). -/
def frameBytes (w : Word48) : Header :=
  { start := w.extractLsb' 0 8, length := w.extractLsb' 8 8, c1 := w.extractLsb' 16 8
    c2 := w.extractLsb' 24 8, c3 := w.extractLsb' 32 8, c4 := w.extractLsb' 40 8 }

/-- The six bytes in wire order, offset 0 first (R25). -/
def headerBytes (h : Header) : List Byte :=
  [h.start, h.length, h.c1, h.c2, h.c3, h.c4]

/-- `RXH[i] <- d` for i from 0 to 5 (R10); there is no register with a higher index. -/
def setHeaderByte (h : Header) (i : Nat) (d : Byte) : Header :=
  match i with
  | 0 => { h with start := d }
  | 1 => { h with length := d }
  | 2 => { h with c1 := d }
  | 3 => { h with c2 := d }
  | 4 => { h with c3 := d }
  | 5 => { h with c4 := d }
  | _ => h

/-- `DecodeHeader` (R52): fewer than six bytes is `SHORT`, tested first; a first byte other than the marker is
`MARKER`; otherwise the six bytes. -/
def decodeHeader : List Byte → Except FormatError Header
  | start :: length :: c1 :: c2 :: c3 :: c4 :: _ =>
    if start = marker then
      .ok { start := start, length := length, c1 := c1, c2 := c2, c3 := c3, c4 := c4 }
    else .error .marker
  | _ => .error .short

/-- `Classify` (R53): `c1[0]` first, and only when it is 1 `c1[1]`. -/
def classify (c1 : Byte) : Variant :=
  if c1.getLsbD 0 = false then .data
  else if c1.getLsbD 1 = false then .ack
  else .signal

/-- The send number of a data header (`DecodeData`, R54). -/
def sendOf (h : Header) : Seq15 := unpack15 h.c1 h.c2

/-- The receive number of a data or ack header (`DecodeData`, `DecodeAck`, R54, R55). -/
def recvOf (h : Header) : Seq15 := unpack15 h.c3 h.c4

/-- `DecodeSignal` (R56): `c1[7:2]`. -/
def flagsOf (h : Header) : Flags6 := h.c1.extractLsb' 2 6

/-- `AckValue` (R76): the 15-bit increment, which wraps. -/
def ackValue (send : Seq15) : Seq15 := send + 1#15

/-- An encoder's result: the error code and the six bytes (R68 to R72). -/
structure EncResult where
  err   : Code2
  bytes : Header
  deriving DecidableEq, Repr

/-- Six zero bytes, what a failed encode gives (R68, R71). -/
def zeroHeader : Header :=
  { start := 0, length := 0, c1 := 0, c2 := 0, c3 := 0, c4 := 0 }

/-- An encode request that fails with the given code (R68, R71, R85). -/
def encFail (code : Code2) : EncResult := { err := code, bytes := zeroHeader }

/-- `EncodeData` (R68); LengthOverflow, code 2, when the payload length does not fit. -/
def encodeData (send recv : Seq15) (paylen : Byte) : EncResult :=
  if paylen > paylenMax then encFail 2#2
  else
    { err := 0
      bytes := { start := marker, length := lenBase + paylen, c1 := (pack15 send).1, c2 := (pack15 send).2
                 c3 := (pack15 recv).1, c4 := (pack15 recv).2 } }

/-- `EncodeAck` (R69). -/
def encodeAck (recv : Seq15) : EncResult :=
  { err := 0
    bytes := { start := marker, length := lenBase, c1 := 0x01#8, c2 := 0x00#8
               c3 := (pack15 recv).1, c4 := (pack15 recv).2 } }

/-- `EncodeSignal` (R70): `c1` is the flags shifted left by two, or 3. -/
def encodeSignal (flags : Flags6) : EncResult :=
  { err := 0
    bytes := { start := marker, length := lenBase, c1 := (flags.setWidth 8 <<< 2) ||| 0b11#8
               c2 := 0x00#8, c3 := 0x00#8, c4 := 0x00#8 } }

/-- The frame word of an encoder's result: 0 when it failed (R72). -/
def encWord (e : EncResult) : Word48 :=
  if e.err = 0 then frameWord e.bytes else 0#48

/-- `Encode` (R72): the selector picks the operation; 0b10 is the unrecognised one, UnsupportedVariantError, code 1. -/
def encodeRequest (r : Request) : EncResult :=
  if r.var = 0b00#2 then encodeData r.send r.recv r.paylen
  else if r.var = 0b01#2 then encodeAck r.recv
  else if r.var = 0b11#2 then encodeSignal r.flags
  else encFail 1#2

end Sys2Proof.Machine
end

