-- ==== Sys2Proof/Decode.lean ====
section
/-! DEFINITION. From a stimulus to the operation it selects (R47, R49) and back. The decoder is total: every buffer and
every request selects exactly one operation (R45, R47, R62), so there is no encoding to reject. -/

namespace Sys2Proof

open Machine

/-- The frame-variant part of the selection, for six bytes that begin with the marker (R49 tests 3 to 5). -/
def decodeFrame (length c1 c2 c3 c4 : Byte) (tail : List Byte) (ackEn : Bool) : Instr :=
  match classify c1 with
  | .data => .rxData length (unpack15 c1 c2) (unpack15 c3 c4) (c3.extractLsb' 0 1) tail ackEn
  | .ack => .rxAck length (unpack15 c3 c4) (c1.extractLsb' 2 6) c2 (c3.extractLsb' 0 1) tail
  | .signal => .rxSig length (c1.extractLsb' 2 6) c2 c3 c4 tail

/-- The operation a buffer selects (R49): the length test first, then the marker, then the tag bits of `c1`. -/
def decodeBytes (b : List Byte) (ackEn : Bool) : Instr :=
  match b with
  | start :: length :: c1 :: c2 :: c3 :: c4 :: tail =>
    if start = marker then decodeFrame length c1 c2 c3 c4 tail ackEn
    else .rxBadmark start (length :: c1 :: c2 :: c3 :: c4 :: tail)
  | short => .rxShort short

/-- The operation a request selects (R47). -/
def decodeRequest (r : Request) : Instr :=
  if r.var = 0b00#2 then .encData r.send r.recv r.flags r.paylen
  else if r.var = 0b01#2 then .encAck r.send r.recv r.flags r.paylen
  else if r.var = 0b11#2 then .encSig r.send r.recv r.flags r.paylen
  else .encRsvd r.send r.recv r.flags r.paylen

/-- The operation a stimulus selects. -/
def decode : Stimulus → Instr
  | .buffer b ackEn => decodeBytes b ackEn
  | .request r => decodeRequest r

/-! ## The encoder -/

/-- The low byte of a sequence-number pair with its tag bit (R26, R44): bits 7:1 from `Pack15`, bit 0 the tag. -/
def pairLow (v : Seq15) (tag : BitVec 1) : Byte := (pack15 v).1 ||| tag.setWidth 8

/-- The bytes of a data frame (R39). -/
def dataFrameBytes (length : Byte) (send recv : Seq15) (c3tag : BitVec 1) (adu : List Byte) : List Byte :=
  [marker, length, (pack15 send).1, (pack15 send).2, pairLow recv c3tag, (pack15 recv).2] ++ adu

/-- The bytes of an ack frame (R40), its ignored bits as given. -/
def ackFrameBytes (length : Byte) (recv : Seq15) (c1high : BitVec 6) (c2 : Byte) (c3tag : BitVec 1)
    (rest : List Byte) : List Byte :=
  [marker, length, (c1high.setWidth 8 <<< 2) ||| 0b01#8, c2, pairLow recv c3tag, (pack15 recv).2] ++ rest

/-- The bytes of a control-signal frame (R41), its unused bytes as given. -/
def signalFrameBytes (length : Byte) (flags : Flags6) (c2 c3 c4 : Byte) (rest : List Byte) : List Byte :=
  [marker, length, (flags.setWidth 8 <<< 2) ||| 0b11#8, c2, c3, c4] ++ rest

/-- The request of a pseudo-operation: `SIG` with one flag (R51). The three inputs ENC.SIG ignores are 0
(DESIGN CHOICE, safe, assumption log 10). -/
def signalRequest (flags : Flags6) : Stimulus :=
  .request { var := 0b11#2, send := 0, recv := 0, flags := flags, paylen := 0 }

/-- The stimulus that selects an operation; none for ACKGEN, which "has no encoding of its own" (R77). -/
def encode : Instr → Option Stimulus
  | .rxShort b => some (.buffer b false)
  | .rxBadmark start rest => some (.buffer (start :: rest) false)
  | .rxData length send recv c3tag adu ackEn => some (.buffer (dataFrameBytes length send recv c3tag adu) ackEn)
  | .rxAck length recv c1high c2 c3tag rest => some (.buffer (ackFrameBytes length recv c1high c2 c3tag rest) false)
  | .rxSig length flags c2 c3 c4 rest => some (.buffer (signalFrameBytes length flags c2 c3 c4 rest) false)
  | .encData send recv flags paylen =>
    some (.request { var := 0b00#2, send := send, recv := recv, flags := flags, paylen := paylen })
  | .encAck send recv flags paylen =>
    some (.request { var := 0b01#2, send := send, recv := recv, flags := flags, paylen := paylen })
  | .encSig send recv flags paylen =>
    some (.request { var := 0b11#2, send := send, recv := recv, flags := flags, paylen := paylen })
  | .encRsvd send recv flags paylen =>
    some (.request { var := 0b10#2, send := send, recv := recv, flags := flags, paylen := paylen })
  | .ackgen _ => none
  | .startAct => some (signalRequest flagStartAct)
  | .startCon => some (signalRequest flagStartCon)
  | .stopAct => some (signalRequest flagStopAct)
  | .stopCon => some (signalRequest flagStopCon)
  | .testAct => some (signalRequest flagTestAct)
  | .testCon => some (signalRequest flagTestCon)

/-- What a pseudo-operation expands to (R51); every other operation is itself. -/
def expand : Instr → Instr
  | .startAct => .encSig 0 0 flagStartAct 0
  | .startCon => .encSig 0 0 flagStartCon 0
  | .stopAct => .encSig 0 0 flagStopAct 0
  | .stopCon => .encSig 0 0 flagStopCon 0
  | .testAct => .encSig 0 0 flagTestAct 0
  | .testCon => .encSig 0 0 flagTestCon 0
  | .rxShort b => .rxShort b
  | .rxBadmark start rest => .rxBadmark start rest
  | .rxData length send recv c3tag adu ackEn => .rxData length send recv c3tag adu ackEn
  | .rxAck length recv c1high c2 c3tag rest => .rxAck length recv c1high c2 c3tag rest
  | .rxSig length flags c2 c3 c4 rest => .rxSig length flags c2 c3 c4 rest
  | .encData send recv flags paylen => .encData send recv flags paylen
  | .encAck send recv flags paylen => .encAck send recv flags paylen
  | .encSig send recv flags paylen => .encSig send recv flags paylen
  | .encRsvd send recv flags paylen => .encRsvd send recv flags paylen
  | .ackgen v => .ackgen v

/-! ## Words of the opcode table -/

/-- The n lowest bytes of a number, least significant first: offset i is bits 8i + 7 to 8i (R27). -/
def littleBytes : Nat → Nat → List Byte
  | 0, _ => []
  | n + 1, w => BitVec.ofNat 8 w :: littleBytes n (w / 256)

/-- How many bytes a table word of more than eight bits is laid out in: the six of a header, or more if the word has
more. -/
def tableBytes (nbits : Nat) : Nat := max hdrSize ((nbits + 7) / 8)

/-- The stimulus a word of spec/opcode_table.json stands for (assumption log 12). A row of no bits is the empty buffer
(RX.SHORT is "selected by the buffer's length, not by bits"); a row of at most eight bits is the request selector, the
other request inputs 0; a wider one is a buffer, offset 0 in bits 7:0, padded with zero bytes to six. `ack_en` is 1, so
that a row of RX.DATA performs ACKGEN, whose row has the same match and mask, with it. -/
def tableStimulus (nbits w : Nat) : Stimulus :=
  if nbits = 0 then .buffer [] true
  else if nbits ≤ 8 then
    .request { var := BitVec.ofNat 2 w, send := 0, recv := 0, flags := 0, paylen := 0 }
  else .buffer (littleBytes (tableBytes nbits) (w % 2 ^ nbits)) true

/-- The operation the decoder reads from a word of the opcode table. -/
def decodeTableWord (nbits w : Nat) : Option Instr :=
  some (decode (tableStimulus nbits w))

end Sys2Proof
end

