-- ==== Sys2Proof/Config.lean ====
section
/-! DEFINITION. The free values: what the spec leaves unspecified while the block goes on. Each is an opaque constant
applied to the counter `State.fresh`, so nothing in Lean can evaluate it and a statement holds whatever it is. The
block has no implementation parameter (R3: "none is left to the implementation"), so nothing else stands here.
They are drawn by the RESET step for `RXH`, `RXR` and `AKR` (R19, R96; assumption log 3) and by the output ports whose
valid is 0 (R22; assumption log 8). -/

namespace Sys2Proof

/-- Free value of `RXH[0]` to `RXH[5]` (second argument: the index). -/
opaque Config.freeHeaderByte : Nat → Nat → Byte

/-- Free value of `RXR.ERR`. -/
opaque Config.freeErr : Nat → Code2

/-- Free value of `RXR.VAR`. -/
opaque Config.freeVar : Nat → Code2

/-- Free value of `RXR.LEN`. -/
opaque Config.freeLen : Nat → Byte

/-- Free value of `RXR.SEND`. -/
opaque Config.freeSend : Nat → Seq15

/-- Free value of `RXR.RECV`. -/
opaque Config.freeRecv : Nat → Seq15

/-- Free value of `RXR.FLAGS`. -/
opaque Config.freeFlags : Nat → Flags6

/-- Free value of `RXR.NRECV`. -/
opaque Config.freeNrecv : Nat → Seq15

/-- Free value of `AKR`. -/
opaque Config.freeAkr : Nat → Word48

end Sys2Proof
end

