-- ==== Sys2Proof/Machine/Ops.lean ====
section
/-! DEFINITION. The named operations over the registers, which every meaning is written over. The block has no trap
(R87): "raise FormatError" is `errorRecord`, delivered like any record, and there is nothing to return from (R88). -/

namespace Sys2Proof.Machine

/-! ## What the host gets -/

/-- The host receives something. -/
def State.tell (s : State) (e : Event) : State := { s with got := s.got ++ [e] }

/-- The state with another block state; the host side is unchanged. -/
def State.setFcu (s : State) (f : Fcu) : State := { s with fcu := f }

/-! ## Records (R13) -/

/-- `raise FormatError`: the record of a buffer that is no frame; everything but the code is fixed (R57, R58, R84). -/
def errorRecord (e : FormatError) : Record :=
  { err := formatErrorCode e, var := varNone, len := 0, send := 0, recv := 0, flags := 0, nrecv := 0 }

/-- The record of a data frame (R59). `NRECV` is given whether or not `ack_en` is 1 (R80). -/
def dataRecord (length : Byte) (send recv : Seq15) : Record :=
  { err := 0, var := variantCode .data, len := length, send := send, recv := recv, flags := 0
    nrecv := ackValue send }

/-- The record of an ack frame (R60). -/
def ackRecord (length : Byte) (recv : Seq15) : Record :=
  { err := 0, var := variantCode .ack, len := length, send := 0, recv := recv, flags := 0, nrecv := 0 }

/-- The record of a control-signal frame (R61). -/
def signalRecord (length : Byte) (flags : Flags6) : Record :=
  { err := 0, var := variantCode .signal, len := length, send := 0, recv := 0, flags := flags, nrecv := 0 }

/-- `DecodeBuffer` (R62), over the source's functions of R52 to R56. -/
def decodeBuffer (b : List Byte) : Record :=
  match decodeHeader b with
  | .error e => errorRecord e
  | .ok h =>
    match classify h.c1 with
    | .data => dataRecord h.length (sendOf h) (recvOf h)
    | .ack => ackRecord h.length (recvOf h)
    | .signal => signalRecord h.length (flagsOf h)

/-! ## The commit, and the generator -/

/-- The commit of a buffer: `RXR <- rec`, `RXR_V <- 1`, and `RXN` is 0 afterwards (R63 "RXN stays 0", R64
"RXN <- 0"; assumption log 6). -/
def commitRecord (r : Record) (f : Fcu) : Fcu := { f with rxr := r, rxrV := true, rxn := 0 }

/-- `ACKGEN` (R77): `AKR <- FrameWord(EncodeAck(v))`, `AKR_V <- 1`. -/
def ackGen (v : Seq15) (f : Fcu) : Fcu := { f with akr := frameWord (encodeAck v).bytes, akrV := true }

/-- The commit of an RX operation: taken when RX is enabled; otherwise RX is held and the block does not change
(R63, R103; assumption log 5). -/
def rxCommit (update : Fcu → Fcu) (s : State) : Host.Outcome State Fault Refusal :=
  if rxReady s.fcu then .next (s.setFcu (update s.fcu)) else .next (s.tell (.held .rxIn))

/-- The step ENC: the host reads the answer of the request (R72). No state of the block is read or written. -/
def answerRequest (e : EncResult) (s : State) : Host.Outcome State Fault Refusal :=
  .next (s.tell (.answer e.err (encWord e)))

/-! ## The takes -/

/-- The effect of RXR.TAKE (R67): the host receives `RXR`, `RXR_V <- 0`. -/
def giveRecord (s : State) : State :=
  (s.setFcu { s.fcu with rxrV := false }).tell (.record s.fcu.rxr)

/-- The effect of ACK.TAKE (R78): the host receives `AKR`, `AKR_V <- 0`. -/
def giveAck (s : State) : State :=
  (s.setFcu { s.fcu with akrV := false }).tell (.ackFrame s.fcu.akr)

/-- The step RXR.TAKE (R67); not enabled, it is passed over (assumption log 5). -/
def takeRec (s : State) : Host.Outcome State Fault Refusal :=
  if rxrValid s.fcu then .next (giveRecord s) else .next (s.tell (.held .recordOut))

/-- The step ACK.TAKE (R78); not enabled, it is passed over (assumption log 5). -/
def takeAck (s : State) : Host.Outcome State Fault Refusal :=
  if ackValid s.fcu then .next (giveAck s) else .next (s.tell (.held .ackOut))

/-! ## Reset and unspecified values -/

/-- Free capture registers (R19; assumption log 3). -/
def freeHeader (n : Nat) : Header :=
  { start := Config.freeHeaderByte n 0, length := Config.freeHeaderByte n 1, c1 := Config.freeHeaderByte n 2
    c2 := Config.freeHeaderByte n 3, c3 := Config.freeHeaderByte n 4, c4 := Config.freeHeaderByte n 5 }

/-- A free record: any 63 bits (R19, R22; assumption log 3, 8). -/
def freeRecord (n : Nat) : Record :=
  { err := Config.freeErr n, var := Config.freeVar n, len := Config.freeLen n, send := Config.freeSend n
    recv := Config.freeRecv n, flags := Config.freeFlags n, nrecv := Config.freeNrecv n }

/-- The step RESET (R96, R97): always enabled; `RXN`, `RXR_V`, `AKR_V` become 0 and `RXH`, `RXR`, `AKR` unspecified. -/
def resetStep (s : State) : State :=
  { s with
    fcu := { rxn := 0, rxh := freeHeader s.fresh, rxr := freeRecord s.fresh, rxrV := false
             akr := Config.freeAkr s.fresh, akrV := false }
    fresh := s.fresh + 1 }

end Sys2Proof.Machine
end

