-- ==== Sys2Proof/Machine/Ackgen.lean ====
section
/-! DEFINITION. The acknowledgement-frame generator (42_ackgen.md). -/

namespace Sys2Proof.Machine

/-- ACKGEN as an operation of its own (R77). RX.DATA performs the same `ackGen` inside its commit; no stimulus selects
this operation alone. With a frame still waiting it is held, since `AKR` is never overwritten while valid (R14, R81;
assumption log 9). -/
def execAckgen (v : Seq15) (s : State) : Host.Outcome State Fault Refusal :=
  if ackValid s.fcu then .next (s.tell (.held .rxIn)) else .next (s.setFcu (ackGen v s.fcu))

end Sys2Proof.Machine
end

