-- ==== Sys2Proof/Machine/Enc.lean ====
section
/-! DEFINITION. The encode family (agent ENC): ENC.DATA, ENC.ACK, ENC.SIG, ENC.RSVD (41_encode.md) and the six
pseudo-operations, each ENC.SIG with one flag (R51). Each answers its request and writes no state of the block. -/

namespace Sys2Proof.Machine

/-- ENC.DATA (R68); `enc_flags` is ignored. -/
def execEncData (send recv : Seq15) (_flags : Flags6) (paylen : Byte) (s : State) :
    Host.Outcome State Fault Refusal :=
  answerRequest (encodeData send recv paylen) s

/-- ENC.ACK (R69); only `enc_recv` is used. -/
def execEncAck (_send recv : Seq15) (_flags : Flags6) (_paylen : Byte) (s : State) :
    Host.Outcome State Fault Refusal :=
  answerRequest (encodeAck recv) s

/-- ENC.SIG (R70); only `enc_flags` is used. -/
def execEncSig (_send _recv : Seq15) (flags : Flags6) (_paylen : Byte) (s : State) :
    Host.Outcome State Fault Refusal :=
  answerRequest (encodeSignal flags) s

/-- ENC.RSVD (R71): UnsupportedVariantError, whatever the other inputs are. -/
def execEncRsvd (_send _recv : Seq15) (_flags : Flags6) (_paylen : Byte) (s : State) :
    Host.Outcome State Fault Refusal :=
  answerRequest (encFail 1#2) s

/-- START_ACT (R51). -/
def execStartAct (s : State) : Host.Outcome State Fault Refusal :=
  answerRequest (encodeSignal flagStartAct) s

/-- START_CON (R51). -/
def execStartCon (s : State) : Host.Outcome State Fault Refusal :=
  answerRequest (encodeSignal flagStartCon) s

/-- STOP_ACT (R51). -/
def execStopAct (s : State) : Host.Outcome State Fault Refusal :=
  answerRequest (encodeSignal flagStopAct) s

/-- STOP_CON (R51). -/
def execStopCon (s : State) : Host.Outcome State Fault Refusal :=
  answerRequest (encodeSignal flagStopCon) s

/-- TEST_ACT (R51). -/
def execTestAct (s : State) : Host.Outcome State Fault Refusal :=
  answerRequest (encodeSignal flagTestAct) s

/-- TEST_CON (R51). -/
def execTestCon (s : State) : Host.Outcome State Fault Refusal :=
  answerRequest (encodeSignal flagTestCon) s

end Sys2Proof.Machine
end

