-- ==== Sys2Proof/Machine/Rx.lean ====
section
/-! DEFINITION. The decode family (agent RX): RX.SHORT, RX.BADMARK, RX.DATA, RX.ACK, RX.SIG (40_decode.md). -/

namespace Sys2Proof.Machine

/-- RX.SHORT (R57): no byte of the buffer is used, and no acknowledgement is made whatever `ack_en` is. -/
def execRxShort (_b : List Byte) (s : State) : Host.Outcome State Fault Refusal :=
  rxCommit (commitRecord (errorRecord .short)) s

/-- RX.BADMARK (R58): the bytes appear in no output. -/
def execRxBadmark (_start : Byte) (_rest : List Byte) (s : State) : Host.Outcome State Fault Refusal :=
  rxCommit (commitRecord (errorRecord .marker)) s

/-- The commit of a data frame (R59): the record, and with `ack_en` = 1 also ACKGEN of its `NRECV`, in the same step
(R77). -/
def commitData (length : Byte) (send recv : Seq15) (ackEn : Bool) (f : Fcu) : Fcu :=
  let r := dataRecord length send recv
  if ackEn then ackGen r.nrecv (commitRecord r f) else commitRecord r f

/-- RX.DATA (R59). -/
def execRxData (length : Byte) (send recv : Seq15) (_c3tag : BitVec 1) (_adu : List Byte) (ackEn : Bool)
    (s : State) : Host.Outcome State Fault Refusal :=
  rxCommit (commitData length send recv ackEn) s

/-- RX.ACK (R60): an ack frame is never acknowledged. -/
def execRxAck (length : Byte) (recv : Seq15) (_c1high : BitVec 6) (_c2 : Byte) (_c3tag : BitVec 1)
    (_rest : List Byte) (s : State) : Host.Outcome State Fault Refusal :=
  rxCommit (commitRecord (ackRecord length recv)) s

/-- RX.SIG (R61): the flags are delivered as they are; the block does not answer the frame. -/
def execRxSig (length : Byte) (flags : Flags6) (_c2 _c3 _c4 : Byte) (_rest : List Byte)
    (s : State) : Host.Outcome State Fault Refusal :=
  rxCommit (commitRecord (signalRecord length flags)) s

end Sys2Proof.Machine
end

