-- ==== Sys2Proof/Machine/Dispatch.lean ====
section
/-! DEFINITION. The dispatcher: one arm per operation. -/

namespace Sys2Proof.Machine

def exec (i : Instr) (s : State) : Host.Outcome State Fault Refusal :=
  match i with
  | .rxShort b => Sys2Proof.Machine.execRxShort b s
  | .rxBadmark start rest => Sys2Proof.Machine.execRxBadmark start rest s
  | .rxData length send recv c3tag adu ackEn => Sys2Proof.Machine.execRxData length send recv c3tag adu ackEn s
  | .rxAck length recv c1high c2 c3tag rest => Sys2Proof.Machine.execRxAck length recv c1high c2 c3tag rest s
  | .rxSig length flags c2 c3 c4 rest => Sys2Proof.Machine.execRxSig length flags c2 c3 c4 rest s
  | .encData send recv flags paylen => Sys2Proof.Machine.execEncData send recv flags paylen s
  | .encAck send recv flags paylen => Sys2Proof.Machine.execEncAck send recv flags paylen s
  | .encSig send recv flags paylen => Sys2Proof.Machine.execEncSig send recv flags paylen s
  | .encRsvd send recv flags paylen => Sys2Proof.Machine.execEncRsvd send recv flags paylen s
  | .ackgen v => Sys2Proof.Machine.execAckgen v s
  | .startAct => Sys2Proof.Machine.execStartAct s
  | .startCon => Sys2Proof.Machine.execStartCon s
  | .stopAct => Sys2Proof.Machine.execStopAct s
  | .stopCon => Sys2Proof.Machine.execStopCon s
  | .testAct => Sys2Proof.Machine.execTestAct s
  | .testCon => Sys2Proof.Machine.execTestCon s

end Sys2Proof.Machine
end

