-- ==== Sys2Proof/Machine/Signal.lean ====
section
/-! DEFINITION. The signal level: the byte step RX.BYTE (R64), the output ports (R22) and a whole clock edge (R21, R98),
and with them the host actions (R5, R6). -/

namespace Sys2Proof.Machine

/-- The capture of an accepted byte (R64): at `RXN` < 6 it goes to `RXH[RXN]` and `RXN` counts on; at 6 the byte is
dropped and `RXN` stays (R11, R30). -/
def capture (d : Byte) (f : Fcu) : Fcu :=
  { f with
    rxh := setHeaderByte f.rxh f.rxn.val d
    rxn := ⟨min (f.rxn.val + 1) 6, by omega⟩ }

/-- The bytes captured so far: `RXH[i]` for i below `RXN`, and no stale one (R10, R64). -/
def captured (f : Fcu) : List Byte := (headerBytes f.rxh).take f.rxn.val

/-- The step RX.BYTE (R64). The byte with `rx_last` commits: the captured bytes, at most six, are decoded and their
operation performed; `ack_en` is read only there (R102). -/
def rxByte (d : Byte) (last ackEn : Bool) (s : State) : Host.Outcome State Fault Refusal :=
  if rxReady s.fcu then
    let s' := s.setFcu (capture d s.fcu)
    if last then exec (decode (.buffer (captured s'.fcu) ackEn)) s' else .next s'
  else .next (s.tell (.held .rxIn))

/-- The output ports, as functions of the state and of the input ports (R22). While `rst` = 1 the ready and the two
valids are 0 (R98). A data output whose valid is 0 is unspecified: a free value (assumption log 8). The encode outputs
follow the request at every moment (R72, R98). -/
def outputs (p : Pins) (s : State) : Outputs :=
  { rxReady := !p.rst && rxReady s.fcu
    rxrValid := !p.rst && rxrValid s.fcu
    rxr := if !p.rst && rxrValid s.fcu then s.fcu.rxr else freeRecord s.fresh
    ackValid := !p.rst && ackValid s.fcu
    ackFrame := if !p.rst && ackValid s.fcu then s.fcu.akr else Config.freeAkr s.fresh
    encErr := (encodeRequest p.enc).err
    encFrame := encWord (encodeRequest p.enc) }

/-- The host sees the output ports; the next unspecified value is another one. -/
def observe (p : Pins) (s : State) : State :=
  { s.tell (.ports (outputs p s)) with fresh := s.fresh + 1 }

/-- The takes at a clock edge: each transfers when its valid and its ready are 1 (R21). They commute (R94); the host
receives the record first here (assumption log 18). -/
def edgeTakes (p : Pins) (s : State) : State :=
  let s' := if p.rxrReady && rxrValid s.fcu then giveRecord s else s
  if p.ackReady && ackValid s.fcu then giveAck s' else s'

/-- A rising edge of `clk` (R21): RESET and nothing else when `rst` = 1 (R98); otherwise the transfer on "RX in" when
`rx_valid` and `rx_ready` are 1, which excludes a take (R94), and else the takes. -/
def clockEdge (p : Pins) (s : State) : Host.Outcome State Fault Refusal :=
  if p.rst then .next (resetStep (observe p s))
  else if p.rxValid && rxReady s.fcu then rxByte p.rxData p.rxLast p.ackEn (observe p s)
  else .next (edgeTakes p (observe p s))

/-- One host action (R5, R6). A stimulus is decoded and its operation performed: the steps RX.BUF (R63) and ENC (R72). -/
def perform (a : HostAction) (s : State) : Host.Outcome State Fault Refusal :=
  match a with
  | .stimulus x => exec (decode x) s
  | .rxByte d last ackEn => rxByte d last ackEn s
  | .takeRec => takeRec s
  | .takeAck => takeAck s
  | .reset => .next (resetStep s)
  | .edge p => clockEdge p s

/-- One step of the machine: the host's next action is taken off the list and performed; with none left the block is
idle and nothing changes (R93; assumption log 21). -/
def runNext (s : State) : Host.Outcome State Fault Refusal :=
  match s.script with
  | [] => .next s
  | a :: rest => perform a { s with script := rest }

/-- The state with a host action put first. -/
def pushAction (a : HostAction) (s : State) : State := { s with script := a :: s.script }

end Sys2Proof.Machine
end

