-- ==== Sys2Proof/Machine/Step.lean ====
section
/-! DEFINITION. The step of the machine, and where it fetches. -/

namespace Sys2Proof.Machine

/-- One step. -/
def step (s : State) : Host.Outcome State Fault Refusal := runNext s

/-- The state in which the next step runs the operation of a word of the opcode table: its stimulus is the host's next
action (assumption log 12). -/
def State.withFetchWord (s : State) (nbits w : Nat) : State :=
  pushAction (.stimulus (tableStimulus nbits w)) s

end Sys2Proof.Machine
end

