-- ==== Sys2Proof/Safety.lean ====
section
/-! DEFINITION. The terms claims are made in: which records and ack frames are good (R13, R14), the invariant of the
machine, what a step commits, and the ledgers of records and ack frames that R31, R81 and R82 speak of. -/

namespace Sys2Proof.Safety

open Machine

/-- An error record: `ERR` is 1 or 2, `VAR` is `NONE`, every other field 0 (R13, R84). -/
abbrev errorShape (r : Record) : Prop :=
  (r.err = 1#2 ∨ r.err = 2#2) ∧ r.var = 0b10#2 ∧ r.len = 0 ∧ r.send = 0 ∧ r.recv = 0 ∧ r.flags = 0 ∧ r.nrecv = 0

/-- A data record: no flags, `NRECV` = `AckValue(SEND)` (R13, R59, R80). -/
abbrev dataShape (r : Record) : Prop :=
  r.err = 0#2 ∧ r.var = 0b00#2 ∧ r.flags = 0 ∧ r.nrecv = ackValue r.send

/-- An ack record (R13, R60). -/
abbrev ackShape (r : Record) : Prop :=
  r.err = 0#2 ∧ r.var = 0b01#2 ∧ r.send = 0 ∧ r.flags = 0 ∧ r.nrecv = 0

/-- A control-signal record (R13, R61). -/
abbrev signalShape (r : Record) : Prop :=
  r.err = 0#2 ∧ r.var = 0b11#2 ∧ r.send = 0 ∧ r.recv = 0 ∧ r.nrecv = 0

/-- The record is one of the sum type `Short | BadMarker | Data | Ack | Signal` (R13). -/
abbrev goodRecord (r : Record) : Prop := errorShape r ∨ dataShape r ∨ ackShape r ∨ signalShape r

/-- The word is the frame word of an ack frame as the encoder makes it (R14, R40): the one of its own receive
number. -/
abbrev goodAck (w : Word48) : Prop := w = frameWord (encodeAck (recvOf (frameBytes w))).bytes

/-- The invariant. A waiting record is a good one (R13, R84), a waiting ack frame is an ack frame (R14), both together
belong to one data buffer (R77, R80), and while anything waits RX is between buffers (R11, R12, R14). -/
structure Inv (s : State) : Prop where
  record    : s.fcu.rxrV = true → goodRecord s.fcu.rxr
  ackFrame  : s.fcu.akrV = true → goodAck s.fcu.akr
  together  : s.fcu.rxrV = true → s.fcu.akrV = true →
    dataShape s.fcu.rxr ∧ s.fcu.akr = frameWord (encodeAck s.fcu.rxr.nrecv).bytes
  between   : s.fcu.rxrV = true ∨ s.fcu.akrV = true → s.fcu.rxn = 0

/-- The action resets the block: RESET, or a clock edge with `rst` = 1 (R96, R98). -/
def resets : HostAction → Bool
  | .stimulus _ => false
  | .rxByte _ _ _ => false
  | .takeRec => false
  | .takeAck => false
  | .reset => true
  | .edge p => p.rst

/-- The buffer the next step commits, with the level of `ack_en` at the commit, if it commits one (R63, R64). -/
def commitOf (s : State) : Option (List Byte × Bool) :=
  match s.script with
  | .stimulus (.buffer b ackEn) :: _ => if rxReady s.fcu then some (b, ackEn) else none
  | .rxByte d last ackEn :: _ =>
    if rxReady s.fcu && last then some (captured (capture d s.fcu), ackEn) else none
  | .edge p :: _ =>
    if !p.rst && p.rxValid && rxReady s.fcu && p.rxLast then some (captured (capture p.rxData s.fcu), p.ackEn)
    else none
  | _ => none

/-- The ack frame a committed buffer triggers: one exactly when it is a good data frame committed with `ack_en` = 1,
and then `EncodeAck(AckValue(SEND))` (R77, R82). -/
def ackDue (c : List Byte × Bool) : Option Word48 :=
  if c.2 ∧ (decodeBuffer c.1).err = 0#2 ∧ (decodeBuffer c.1).var = 0b00#2 then
    some (frameWord (encodeAck (ackValue (decodeBuffer c.1).send)).bytes)
  else none

/-- The buffers committed in k steps, in order. -/
def commits : Nat → State → List (List Byte × Bool)
  | 0, _ => []
  | k + 1, s =>
    (commitOf s).toList ++
      (match step s with
       | .next t => commits k t
       | .fault _ => []
       | .refused _ => [])

/-- The records the host has taken, in order. -/
def recordsTaken (s : State) : List Record :=
  s.got.filterMap fun e => match e with
    | .record r => some r
    | .ackFrame _ => none
    | .answer _ _ => none
    | .held _ => none
    | .ports _ => none

/-- The ack frames the host has taken, in order. -/
def acksTaken (s : State) : List Word48 :=
  s.got.filterMap fun e => match e with
    | .record _ => none
    | .ackFrame w => some w
    | .answer _ _ => none
    | .held _ => none
    | .ports _ => none

/-- The records taken, and the one waiting in `RXR` if there is one. -/
def recordLedger (s : State) : List Record :=
  recordsTaken s ++ (if s.fcu.rxrV then [s.fcu.rxr] else [])

/-- The ack frames taken, and the one waiting in `AKR` if there is one. -/
def ackLedger (s : State) : List Word48 :=
  acksTaken s ++ (if s.fcu.akrV then [s.fcu.akr] else [])

/-- The byte steps of one buffer (R65): every byte but the last with `rx_last` = 0 and the level of `ack_en` paired with
it, the last with `rx_last` = 1 and the given level. -/
def byteActions (front : List (Byte × Bool)) (lastByte : Byte) (ackEn : Bool) : List HostAction :=
  front.map (fun x => .rxByte x.1 false x.2) ++ [.rxByte lastByte true ackEn]

/-- The frame-word part of a buffer: `FrameWord(B[0..5])` for a buffer of at least six bytes (R49). -/
def bufferWord : List Byte → Word48
  | b0 :: b1 :: b2 :: b3 :: b4 :: b5 :: _ =>
    frameWord { start := b0, length := b1, c1 := b2, c2 := b3, c3 := b4, c4 := b5 }
  | _ => 0

/-- The encoding of a record (R74), with `paylen` = `LEN` − 4 for a data record. DESIGN CHOICE (assumption log 23,
unsafe): for `LEN` below 4, where the spec gives `LEN` − 4 no meaning, the difference is taken modulo 256; it is 252 to
255, so the answer is LengthOverflow with six zero bytes. -/
def reencode (r : Record) : EncResult :=
  if r.var = 0b00#2 then encodeData r.send r.recv (r.len - 4)
  else if r.var = 0b01#2 then encodeAck r.recv
  else encodeSignal r.flags

/-- Six bytes that are a canonical frame (R74): the marker, every ignored bit of R44 clear, `length` at least 4 for a
data frame and 4 otherwise. -/
abbrev canonical (h : Header) : Prop :=
  h.start = 0x68#8 ∧
    ((h.c1.getLsbD 0 = false ∧ h.c3.getLsbD 0 = false ∧ 4 ≤ h.length.toNat) ∨
      (h.c1 = 0x01#8 ∧ h.c2 = 0 ∧ h.c3.getLsbD 0 = false ∧ h.length = 4) ∨
      (h.c1.getLsbD 0 = true ∧ h.c1.getLsbD 1 = true ∧ h.c2 = 0 ∧ h.c3 = 0 ∧ h.c4 = 0 ∧ h.length = 4))

end Sys2Proof.Safety
end

