-- ==== Sys2Proof/WellFormed.lean ====
section
/-! DEFINITION. Which terms of `Instr` are operations of the block. Every operand has the width the spec gives it, so
only the two error operations of the decoder carry a condition: it is the condition that selects them (R49, R57, R58). -/

namespace Sys2Proof

/-- An operation term that some stimulus selects, or that another operation performs (ACKGEN, the pseudo-operations). -/
def Instr.wellFormed : Instr → Bool
  | .rxShort b => decide (b.length < Machine.hdrSize)
  | .rxBadmark start rest => decide (start ≠ Machine.marker) && decide (Machine.hdrSize ≤ rest.length + 1)
  | .rxData _ _ _ _ _ _ => true
  | .rxAck _ _ _ _ _ _ => true
  | .rxSig _ _ _ _ _ _ => true
  | .encData _ _ _ _ => true
  | .encAck _ _ _ _ => true
  | .encSig _ _ _ _ => true
  | .encRsvd _ _ _ _ => true
  | .ackgen _ => true
  | .startAct => true
  | .startCon => true
  | .stopAct => true
  | .stopCon => true
  | .testAct => true
  | .testCon => true

end Sys2Proof
end

