-- ==== Sys2Proof/Certificates/Slice0/Obligations.lean ====
section
/-! DEFINITION. The statements for the provers. Each names the rules of spec/ it rests on; none speaks of a program.
The free values stand in `Config`; no statement names one, so each holds whatever they are. -/

open Sys2Proof Sys2Proof.Machine Sys2Proof.Safety

/-! ## The operand forms -/

/-- R42: the packing and unpacking of a 15-bit number as numbers, both laws, and the rule's examples. -/
def Obligations.Pack15AndUnpack15AreInverse : Prop :=
  (∀ v : Seq15, (pack15 v).1.toNat + 256 * (pack15 v).2.toNat = 2 * v.toNat) ∧
  (∀ lo hi : Byte, (unpack15 lo hi).toNat = (lo.toNat + 256 * hi.toNat) / 2) ∧
  (∀ v : Seq15, unpack15 (pack15 v).1 (pack15 v).2 = v) ∧
  (∀ lo hi : Byte, pack15 (unpack15 lo hi) = (lo &&& 0xFE#8, hi)) ∧
  pack15 1#15 = (0x02#8, 0x00#8) ∧ pack15 127#15 = (0xFE#8, 0x00#8) ∧ pack15 128#15 = (0x00#8, 0x01#8) ∧
  pack15 32767#15 = (0xFE#8, 0xFF#8) ∧ unpack15 0xFF#8 0xFF#8 = 32767#15

/-- R27: the frame word as a number, its split into bytes, both ways round, and the rule's example. -/
def Obligations.FrameWordLaysBytesInAscendingLanes : Prop :=
  (∀ h : Header, (frameWord h).toNat =
    h.start.toNat + 2 ^ 8 * h.length.toNat + 2 ^ 16 * h.c1.toNat + 2 ^ 24 * h.c2.toNat + 2 ^ 32 * h.c3.toNat +
      2 ^ 40 * h.c4.toNat) ∧
  (∀ h : Header, frameBytes (frameWord h) = h) ∧
  (∀ w : Word48, frameWord (frameBytes w) = w) ∧
  frameWord { start := 0x68, length := 0x04, c1 := 0x01, c2 := 0x00, c3 := 0x02, c4 := 0x00 } = 0x000200010468#48

/-- R53: bit 0 of `c1` first, and only when it is 1 bit 1; no other bit is read. -/
def Obligations.ClassifyReadsTheTagBitsInTurn : Prop :=
  ∀ c1 : Byte,
    (c1.getLsbD 0 = false → classify c1 = .data) ∧
    (c1.getLsbD 0 = true → c1.getLsbD 1 = false → classify c1 = .ack) ∧
    (c1.getLsbD 0 = true → c1.getLsbD 1 = true → classify c1 = .signal)

/-- R66: the counts over the 256 values of `c1`, and the regression case: the 64 values with `c1[1:0]` = 0b10 are
DATA. -/
def Obligations.ClassifyCountsOverAllBytes : Prop :=
  ((List.range 256).filter fun n => classify (BitVec.ofNat 8 n) = .data).length = 128 ∧
  ((List.range 256).filter fun n => classify (BitVec.ofNat 8 n) = .ack).length = 64 ∧
  ((List.range 256).filter fun n => classify (BitVec.ofNat 8 n) = .signal).length = 64 ∧
  ((List.range 256).filter fun n => (BitVec.ofNat 8 n).extractLsb' 0 2 = 0b01#2 ∧ classify (BitVec.ofNat 8 n) = .ack).length = 64 ∧
  ((List.range 256).filter fun n => (BitVec.ofNat 8 n).extractLsb' 0 2 = 0b10#2 ∧ classify (BitVec.ofNat 8 n) = .data).length = 64 ∧
  (∀ c2 : Byte, unpack15 0x02#8 0 = 1#15 ∧ unpack15 0x06#8 0 = 3#15 ∧ (unpack15 0xFE#8 c2).extractLsb' 0 7 = 127#7)

/-- R76: the increment modulo 32768. -/
def Obligations.AckValueIncrementsModulo32768 : Prop :=
  (∀ v : Seq15, (ackValue v).toNat = (v.toNat + 1) % 32768) ∧ ackValue 32767#15 = 0#15 ∧
  (∀ v : Seq15, v ≠ 32767#15 → (ackValue v).toNat = v.toNat + 1)

/-! ## The decode family: each operation's result, state written and frame -/

/-- R57 (pseudocode, state written): RX.SHORT delivers the record with `ERR` = 1, `VAR` = 2 and zeros, and nothing else
of the machine changes. Which buffers select it (R49 test 1). That `RXN` is 0 after a commit is R64's "RXN <- 0" and
R63's "RXN stays 0"; for RX.BUF with `RXN` not 0 it is the model's choice (assumption log 6). -/
def Obligations.RxShortDeliversShortRecord : Prop :=
  (∀ (b : List Byte) (s : State), rxReady s.fcu = true →
    exec (.rxShort b) s = .next
      { s with fcu := { s.fcu with
          rxr := { err := 1, var := 2, len := 0, send := 0, recv := 0, flags := 0, nrecv := 0 }
          rxrV := true, rxn := 0 } }) ∧
  (∀ (b : List Byte) (e : Bool), b.length < 6 → decode (.buffer b e) = .rxShort b)

/-- R58 (pseudocode, state written): RX.BADMARK delivers the record with `ERR` = 2, `VAR` = 2 and zeros, and nothing
else changes; which buffers select it (R49 test 2). `RXN` as in RX.SHORT (assumption log 6). -/
def Obligations.RxBadmarkDeliversMarkerRecord : Prop :=
  (∀ (start : Byte) (rest : List Byte) (s : State), rxReady s.fcu = true →
    exec (.rxBadmark start rest) s = .next
      { s with fcu := { s.fcu with
          rxr := { err := 2, var := 2, len := 0, send := 0, recv := 0, flags := 0, nrecv := 0 }
          rxrV := true, rxn := 0 } }) ∧
  (∀ (start : Byte) (rest : List Byte) (e : Bool), start ≠ 0x68#8 → 5 ≤ rest.length →
    decode (.buffer (start :: rest) e) = .rxBadmark start rest)

/-- R59 and R77 (pseudocode, state written): RX.DATA delivers the record with `NRECV` = `SEND` + 1 modulo 32768 and, with
`ack_en` = 1 only, the ack frame 68 04 01 00 of `NRECV`; nothing else changes. `RXN` as in RX.SHORT (assumption log 6);
the places of the numbers in the frames are the spec's G1 and G2 (assumption log 13, 14). -/
def Obligations.RxDataDeliversRecordAndAckFrame : Prop :=
  (∀ (length : Byte) (send recv : Seq15) (tag : BitVec 1) (adu : List Byte) (ackEn : Bool) (s : State),
    rxReady s.fcu = true →
    exec (.rxData length send recv tag adu ackEn) s = .next
      { s with fcu := { s.fcu with
          rxr := { err := 0, var := 0, len := length, send := send, recv := recv, flags := 0, nrecv := send + 1#15 }
          rxrV := true, rxn := 0
          akr := if ackEn then
              frameWord { start := 0x68, length := 0x04, c1 := 0x01, c2 := 0x00
                          c3 := (pack15 (send + 1#15)).1, c4 := (pack15 (send + 1#15)).2 }
            else s.fcu.akr
          akrV := ackEn } }) ∧
  (∀ (length c1 c2 c3 c4 : Byte) (tail : List Byte) (e : Bool), c1.getLsbD 0 = false →
    decode (.buffer (0x68#8 :: length :: c1 :: c2 :: c3 :: c4 :: tail) e) =
      .rxData length (unpack15 c1 c2) (unpack15 c3 c4) (c3.extractLsb' 0 1) tail e)

/-- R60 (pseudocode, state written): RX.ACK delivers `LEN` and `RECV`, makes no ack frame, and nothing else changes.
`RXN` as in RX.SHORT (assumption log 6); the place of the receive number is the spec's G2 (assumption log 14). -/
def Obligations.RxAckDeliversReceiveNumber : Prop :=
  (∀ (length : Byte) (recv : Seq15) (high : BitVec 6) (c2 : Byte) (tag : BitVec 1) (rest : List Byte) (s : State),
    rxReady s.fcu = true →
    exec (.rxAck length recv high c2 tag rest) s = .next
      { s with fcu := { s.fcu with
          rxr := { err := 0, var := 1, len := length, send := 0, recv := recv, flags := 0, nrecv := 0 }
          rxrV := true, rxn := 0 } }) ∧
  (∀ (length c1 c2 c3 c4 : Byte) (tail : List Byte) (e : Bool), c1.getLsbD 0 = true → c1.getLsbD 1 = false →
    decode (.buffer (0x68#8 :: length :: c1 :: c2 :: c3 :: c4 :: tail) e) =
      .rxAck length (unpack15 c3 c4) (c1.extractLsb' 2 6) c2 (c3.extractLsb' 0 1) tail)

/-- R61 (pseudocode, state written): RX.SIG delivers `LEN` and the flags `c1[7:2]`, makes no ack frame, and nothing else
changes. `RXN` as in RX.SHORT (assumption log 6). -/
def Obligations.RxSigDeliversFlags : Prop :=
  (∀ (length : Byte) (flags : Flags6) (c2 c3 c4 : Byte) (rest : List Byte) (s : State), rxReady s.fcu = true →
    exec (.rxSig length flags c2 c3 c4 rest) s = .next
      { s with fcu := { s.fcu with
          rxr := { err := 0, var := 3, len := length, send := 0, recv := 0, flags := flags, nrecv := 0 }
          rxrV := true, rxn := 0 } }) ∧
  (∀ (length c1 c2 c3 c4 : Byte) (tail : List Byte) (e : Bool), c1.getLsbD 0 = true → c1.getLsbD 1 = true →
    decode (.buffer (0x68#8 :: length :: c1 :: c2 :: c3 :: c4 :: tail) e) =
      .rxSig length (c1.extractLsb' 2 6) c2 c3 c4 tail)

/-- R63, R103: while a record or an ack frame waits, every RX operation is held: the block does not change, and the host
gets the word that nothing was transferred (its form is the model's, assumption log 5). -/
def Obligations.RxOperationsAreHeldWhileAnythingWaits : Prop :=
  ∀ s : State, (s.fcu.rxrV = true ∨ s.fcu.akrV = true) →
    (∀ b, exec (.rxShort b) s = .next { s with got := s.got ++ [.held .rxIn] }) ∧
    (∀ a b, exec (.rxBadmark a b) s = .next { s with got := s.got ++ [.held .rxIn] }) ∧
    (∀ a b c d e f, exec (.rxData a b c d e f) s = .next { s with got := s.got ++ [.held .rxIn] }) ∧
    (∀ a b c d e f, exec (.rxAck a b c d e f) s = .next { s with got := s.got ++ [.held .rxIn] }) ∧
    (∀ a b c d e f, exec (.rxSig a b c d e f) s = .next { s with got := s.got ++ [.held .rxIn] })

/-- R44, R30: what a decode operation ignores changes nothing: the tag of the receive pair and the bytes from offset 6
of a data frame; `c1[7:2]`, `c2`, `c3[0]` and the tail of an ack frame; `c2`, `c3`, `c4` and the tail of a control-signal
frame; and at the level of buffers the record is the same with the ignored bits changed. That the ignored bits are
operands of the operations is the model's form (assumption log 11). -/
def Obligations.IgnoredBitsChangeNothing : Prop :=
  (∀ (l : Byte) (v w : Seq15) (t t' : BitVec 1) (a a' : List Byte) (e : Bool) (s : State),
    exec (.rxData l v w t a e) s = exec (.rxData l v w t' a' e) s) ∧
  (∀ (l : Byte) (v : Seq15) (h h' : BitVec 6) (c c' : Byte) (t t' : BitVec 1) (a a' : List Byte) (s : State),
    exec (.rxAck l v h c t a) s = exec (.rxAck l v h' c' t' a') s) ∧
  (∀ (l : Byte) (f : Flags6) (c2 c2' c3 c3' c4 c4' : Byte) (a a' : List Byte) (s : State),
    exec (.rxSig l f c2 c3 c4 a) s = exec (.rxSig l f c2' c3' c4' a') s) ∧
  (∀ (l c1 c2 c3 c4 : Byte), c1.getLsbD 0 = false →
    decodeBuffer [0x68, l, c1, c2, c3, c4] = decodeBuffer [0x68, l, c1, c2, c3 ^^^ 0x01, c4]) ∧
  (∀ (l c1 c2 c2' c3 c4 : Byte) (m : Byte), c1.getLsbD 0 = true → c1.getLsbD 1 = false →
    decodeBuffer [0x68, l, c1, c2, c3, c4] = decodeBuffer [0x68, l, c1 ^^^ (m &&& 0xFC), c2', c3 ^^^ 0x01, c4]) ∧
  (∀ (l c1 c2 c2' c3 c3' c4 c4' : Byte), c1.getLsbD 0 = true → c1.getLsbD 1 = true →
    decodeBuffer [0x68, l, c1, c2, c3, c4] = decodeBuffer [0x68, l, c1, c2', c3', c4'])

/-- R62: `DecodeBuffer`, case by case, and that it depends on a buffer of at least six bytes only through the first
six. -/
def Obligations.DecodeBufferReadsTheFirstSixBytes : Prop :=
  (∀ B : List Byte, B.length < 6 →
    decodeBuffer B = { err := 1, var := 2, len := 0, send := 0, recv := 0, flags := 0, nrecv := 0 }) ∧
  (∀ (b0 b1 b2 b3 b4 b5 : Byte) (tail : List Byte),
    decodeBuffer (b0 :: b1 :: b2 :: b3 :: b4 :: b5 :: tail) =
      if b0 ≠ 0x68#8 then { err := 2, var := 2, len := 0, send := 0, recv := 0, flags := 0, nrecv := 0 }
      else match classify b2 with
        | .data => { err := 0, var := 0, len := b1, send := unpack15 b2 b3, recv := unpack15 b4 b5, flags := 0
                     nrecv := ackValue (unpack15 b2 b3) }
        | .ack => { err := 0, var := 1, len := b1, send := 0, recv := unpack15 b4 b5, flags := 0, nrecv := 0 }
        | .signal => { err := 0, var := 3, len := b1, send := 0, recv := 0, flags := b2.extractLsb' 2 6, nrecv := 0 }) ∧
  (∀ B : List Byte, 6 ≤ B.length → decodeBuffer B = decodeBuffer (B.take 6))

/-- R84, R13: every record the decoder makes is one of the five kinds of the sum type: code 3 never occurs, `ERR` is not
0 exactly when `VAR` is `NONE`, and a field the variant does not carry is 0. -/
def Obligations.EveryDecodedRecordIsOneOfTheFiveKinds : Prop :=
  ∀ B : List Byte, goodRecord (decodeBuffer B) ∧ (decodeBuffer B).err ≠ 3#2 ∧
    ((decodeBuffer B).err ≠ 0#2 ↔ (decodeBuffer B).var = 0b10#2)

/-- R49: the order of tests, and the match and mask rows over the frame word of the first six bytes; every buffer
selects exactly the operation its row names. -/
def Obligations.MatchAndMaskRowsSelectTheOperation : Prop :=
  ∀ (b : List Byte) (e : Bool),
    (b.length < 6 ↔ decode (.buffer b e) = .rxShort b) ∧
    (6 ≤ b.length →
      (bufferWord b &&& 0x0000000000FF#48 ≠ 0x68#48 ↔ ∃ x y, decode (.buffer b e) = .rxBadmark x y) ∧
      (bufferWord b &&& 0x0000000100FF#48 = 0x000000000068#48 ↔
        ∃ l v w t a, decode (.buffer b e) = .rxData l v w t a e) ∧
      (bufferWord b &&& 0x0000000300FF#48 = 0x000000010068#48 ↔
        ∃ l v h c t a, decode (.buffer b e) = .rxAck l v h c t a) ∧
      (bufferWord b &&& 0x0000000300FF#48 = 0x000000030068#48 ↔
        ∃ l f c2 c3 c4 a, decode (.buffer b e) = .rxSig l f c2 c3 c4 a))

/-! ## The encode family -/

/-- R68 (selection, pseudocode, errors): ENC.DATA answers the data header with `length` 4 + `paylen`, or LengthOverflow
and the zero word above 251; no other part of the machine changes. That the send number goes to `c1`, `c2` is the spec's
G1 (assumption log 13). -/
def Obligations.EncDataAnswersHeaderOrLengthOverflow : Prop :=
  ∀ (send recv : Seq15) (flags : Flags6) (paylen : Byte) (s : State),
    (paylen.toNat ≤ 251 →
      exec (.encData send recv flags paylen) s = .next
        { s with got := s.got ++ [.answer 0 (frameWord
            { start := 0x68, length := BitVec.ofNat 8 (4 + paylen.toNat), c1 := (pack15 send).1, c2 := (pack15 send).2
              c3 := (pack15 recv).1, c4 := (pack15 recv).2 })] }) ∧
    (251 < paylen.toNat →
      exec (.encData send recv flags paylen) s = .next { s with got := s.got ++ [.answer 2 0] }) ∧
    decode (.request { var := 0b00, send := send, recv := recv, flags := flags, paylen := paylen }) =
      .encData send recv flags paylen

/-- R69 (selection, pseudocode): ENC.ACK answers 68 04 01 00 and the packed receive number; no other part changes, and
the other three inputs have no effect. The place of the receive number and the zeros are the spec's G2 (assumption
log 14). -/
def Obligations.EncAckAnswersAckFrame : Prop :=
  ∀ (send recv : Seq15) (flags : Flags6) (paylen : Byte) (s : State),
    exec (.encAck send recv flags paylen) s = .next
      { s with got := s.got ++ [.answer 0 (frameWord
          { start := 0x68, length := 0x04, c1 := 0x01, c2 := 0x00, c3 := (pack15 recv).1, c4 := (pack15 recv).2 })] } ∧
    decode (.request { var := 0b01, send := send, recv := recv, flags := flags, paylen := paylen }) =
      .encAck send recv flags paylen

/-- R70 (selection, pseudocode): ENC.SIG answers 68 04, the flags in bits 7:2 of `c1` over the tag 11, and zeros; no other part
changes, and the other three inputs have no effect. -/
def Obligations.EncSigAnswersSignalFrame : Prop :=
  ∀ (send recv : Seq15) (flags : Flags6) (paylen : Byte) (s : State),
    exec (.encSig send recv flags paylen) s = .next
      { s with got := s.got ++ [.answer 0 (frameWord
          { start := 0x68, length := 0x04, c1 := BitVec.ofNat 8 (4 * flags.toNat + 3), c2 := 0x00, c3 := 0x00
            c4 := 0x00 })] } ∧
    decode (.request { var := 0b11, send := send, recv := recv, flags := flags, paylen := paylen }) =
      .encSig send recv flags paylen

/-- R71: the selector 0b10 is ENC.RSVD, which answers UnsupportedVariantError and the zero word, whatever the inputs
(also with `paylen` over 251), and writes no state. -/
def Obligations.EncRsvdAnswersUnsupportedVariant : Prop :=
  ∀ (send recv : Seq15) (flags : Flags6) (paylen : Byte) (s : State),
    exec (.encRsvd send recv flags paylen) s = .next { s with got := s.got ++ [.answer 1 0] } ∧
    decode (.request { var := 0b10, send := send, recv := recv, flags := flags, paylen := paylen }) =
      .encRsvd send recv flags paylen

/-- R51: each pseudo-operation is ENC.SIG with its one flag, whatever the inputs ENC.SIG ignores are, and answers the
frame word of the bytes in the rule's table. Which flag has which bit is the spec's G3 (assumption log 15). -/
def Obligations.PseudoOperationsAreSingleFlagSignals : Prop :=
  ∀ (v w : Seq15) (p : Byte) (s : State),
    exec .startAct s = .next { s with got := s.got ++ [.answer 0 0x000000070468#48] } ∧
    exec .startCon s = .next { s with got := s.got ++ [.answer 0 0x0000000B0468#48] } ∧
    exec .stopAct s = .next { s with got := s.got ++ [.answer 0 0x000000130468#48] } ∧
    exec .stopCon s = .next { s with got := s.got ++ [.answer 0 0x000000230468#48] } ∧
    exec .testAct s = .next { s with got := s.got ++ [.answer 0 0x000000430468#48] } ∧
    exec .testCon s = .next { s with got := s.got ++ [.answer 0 0x000000830468#48] } ∧
    exec (.encSig v w 0x01#6 p) s = exec .startAct s ∧ exec (.encSig v w 0x02#6 p) s = exec .startCon s ∧
    exec (.encSig v w 0x04#6 p) s = exec .stopAct s ∧ exec (.encSig v w 0x08#6 p) s = exec .stopCon s ∧
    exec (.encSig v w 0x10#6 p) s = exec .testAct s ∧ exec (.encSig v w 0x20#6 p) s = exec .testCon s

/-- R72: the step ENC. The selector picks the operation, the answer is its code and its frame word, the word is 0 when
the code is not 0, code 3 never occurs, the block is neither read nor written, and the zero word is not a frame. -/
def Obligations.EncStepAnswersTheRequest : Prop :=
  ∀ (s : State) (r : Request) (rest : List HostAction), s.script = .stimulus (.request r) :: rest →
    ∃ (err : Code2) (frame : Word48),
      step s = .next { s with script := rest, got := s.got ++ [.answer err frame] } ∧
      (r.var = 0b00#2 → 251 < r.paylen.toNat → err = 2#2) ∧
      (r.var = 0b00#2 → r.paylen.toNat ≤ 251 →
        err = 0 ∧ frame = frameWord (encodeData r.send r.recv r.paylen).bytes) ∧
      (r.var = 0b01#2 → err = 0 ∧ frame = frameWord (encodeAck r.recv).bytes) ∧
      (r.var = 0b11#2 → err = 0 ∧ frame = frameWord (encodeSignal r.flags).bytes) ∧
      (r.var = 0b10#2 → err = 1#2) ∧
      (err ≠ 0 → frame = 0) ∧ err ≠ 3#2 ∧ (frameBytes 0).start ≠ 0x68#8

/-- R75, R34: an encode request and the rest of the block do not see each other: in any two states the same request gets
the same answer, and each keeps its block state. -/
def Obligations.EncodeAndBlockDoNotInterfere : Prop :=
  ∀ (s₁ s₂ : State) (r : Request) (rest₁ rest₂ : List HostAction),
    s₁.script = .stimulus (.request r) :: rest₁ → s₂.script = .stimulus (.request r) :: rest₂ →
    ∃ (t₁ t₂ : State) (a : Event), step s₁ = .next t₁ ∧ step s₂ = .next t₂ ∧ t₁.fcu = s₁.fcu ∧ t₂.fcu = s₂.fcu ∧
      t₁.got = s₁.got ++ [a] ∧ t₂.got = s₂.got ++ [a]

/-- R73: decoding what the encoder made gives the request's values back, with any bytes after a data header; the pairs of
the largest number and of the number after it. -/
def Obligations.DecodeAfterEncodeGivesTheRequestBack : Prop :=
  (∀ (s r : Seq15) (p : Byte) (P : List Byte), p.toNat ≤ 251 →
    (encodeData s r p).err = 0 ∧
    decodeBuffer (headerBytes (encodeData s r p).bytes ++ P) =
      { err := 0, var := 0, len := BitVec.ofNat 8 (4 + p.toNat), send := s, recv := r, flags := 0
        nrecv := BitVec.ofNat 15 ((s.toNat + 1) % 32768) }) ∧
  (∀ r : Seq15, decodeBuffer (headerBytes (encodeAck r).bytes) =
    { err := 0, var := 1, len := 4, send := 0, recv := r, flags := 0, nrecv := 0 }) ∧
  (∀ f : Flags6, decodeBuffer (headerBytes (encodeSignal f).bytes) =
    { err := 0, var := 3, len := 4, send := 0, recv := 0, flags := f, nrecv := 0 }) ∧
  pack15 32767#15 = (0xFE#8, 0xFF#8) ∧ pack15 (32767#15 + 1#15) = (0x00#8, 0x00#8)

/-- R74: encoding the record of six bytes that begin with the marker gives the same six bytes exactly for canonical
frames; otherwise it gives a canonical frame, but for a data frame of `length` below 4. There the spec gives `LEN` − 4 no
meaning, and what encoding such a record gives is the model's choice (assumption log 23): the difference is taken modulo
256, so the answer is LengthOverflow with six zero bytes, which are not the six bytes. -/
def Obligations.EncodeAfterDecodeHoldsForCanonicalFramesOnly : Prop :=
  ∀ h : Header, h.start = 0x68#8 →
    ((reencode (decodeBuffer (headerBytes h))).bytes = h ↔ canonical h) ∧
    (h.c1.getLsbD 0 = true ∨ 4 ≤ h.length.toNat → canonical (reencode (decodeBuffer (headerBytes h))).bytes)

/-! ## The acknowledgement generator -/

/-- R77 (pseudocode): ACKGEN writes `AKR` and `AKR_V` and nothing else. That it is an operation of its own is the model's
form (assumption log 9); the ack frame's layout is the spec's G2 (assumption log 14). -/
def Obligations.AckgenWritesTheAckFrame : Prop :=
  ∀ (v : Seq15) (s : State), s.fcu.akrV = false →
    exec (.ackgen v) s = .next
      { s with fcu := { s.fcu with
          akr := frameWord { start := 0x68, length := 0x04, c1 := 0x01, c2 := 0x00, c3 := (pack15 v).1
                             c4 := (pack15 v).2 }
          akrV := true } }

/-- R59, R77: RX.DATA with `ack_en` = 1 is RX.DATA with `ack_en` = 0 followed by ACKGEN of the record's `NRECV`. The spec
performs ACKGEN inside the commit only; that it stands as an operation that can follow the commit is the model's form
(assumption log 9). -/
def Obligations.DataWithAckEnabledIsDataThenAckgen : Prop :=
  ∀ (l : Byte) (v w : Seq15) (t : BitVec 1) (a : List Byte) (s : State), rxReady s.fcu = true →
    ∃ m : State, exec (.rxData l v w t a false) s = .next m ∧
      exec (.rxData l v w t a true) s = exec (.ackgen m.fcu.rxr.nrecv) m

/-! ## Reset -/

/-- R19: the values the spec gives for the state after reset. -/
def Obligations.ResetStateHasTheSpecValues : Prop :=
  State.reset.fcu.rxn = 0 ∧ State.reset.fcu.rxrV = false ∧ State.reset.fcu.akrV = false

/-- R96: RESET is always enabled, clears `RXN` and the two valid bits, and gives the host nothing. -/
def Obligations.ResetStepIsAlwaysEnabled : Prop :=
  ∀ (s : State) (rest : List HostAction), s.script = .reset :: rest →
    ∃ t : State, step s = .next t ∧ t.fcu.rxn = 0 ∧ t.fcu.rxrV = false ∧ t.fcu.akrV = false ∧ t.script = rest ∧
      t.got = s.got

/-- R97: a waiting record and a waiting ack frame are discarded untaken, and the bytes of a buffer in progress are
forgotten: the next byte is offset 0 of a new buffer. -/
def Obligations.ResetDiscardsWhatWaits : Prop :=
  ∀ (s : State) (rest : List HostAction), s.script = .reset :: rest →
    ∃ t : State, step s = .next t ∧ recordLedger t = recordsTaken s ∧ ackLedger t = acksTaken s ∧
      captured t.fcu = [] ∧ ∀ d : Byte, captured (capture d t.fcu) = [d]

/-! ## The steps -/

/-- The host's next action, when it is a stimulus, is decoded to a well-formed operation, and the step is `exec` of it,
the action taken off the list; with no action left the block is idle (R93). The list of actions is the model's form
(assumption log 1, 12, 21). -/
def Obligations.StepRunsTheDecodedOperation : Prop :=
  (∀ (s : State) (x : Stimulus) (rest : List HostAction), s.script = .stimulus x :: rest →
    (decode x).wellFormed = true ∧ step s = exec (decode x) { s with script := rest }) ∧
  (∀ s : State, s.script = [] → step s = .next s)

/-- Words written out from the spec's encodings decode to the operations they stand for (95_test_vectors.md sections
2.3, 2.4). -/
def Obligations.SpecWordsDecodeToTheirOperations : Prop :=
  decode (.buffer [0x68, 0x04, 0x01, 0x00, 0x00] false) = .rxShort [0x68, 0x04, 0x01, 0x00, 0x00] ∧
  decode (.buffer [0x67, 0x04, 0x01, 0x00, 0x00, 0x00] false) = .rxBadmark 0x67 [0x04, 0x01, 0x00, 0x00, 0x00] ∧
  decode (.buffer [0x68, 0x09, 0x68, 0x24, 0x42, 0x86] true) = .rxData 9 4660 17185 0 [] true ∧
  decode (.buffer [0x68, 0x04, 0xFE, 0x00, 0x00, 0x01] true) = .rxData 4 127 128 0 [] true ∧
  decode (.buffer [0x68, 0x04, 0xFD, 0xFF, 0xFF, 0xFF] true) = .rxAck 4 32767 0x3F 0xFF 1 [] ∧
  decode (.buffer [0x68, 0x04, 0x23, 0x00, 0x00, 0x00] false) = .rxSig 4 0x08 0 0 0 [] ∧
  decode (.request { var := 0b10, send := 1, recv := 1, flags := 1, paylen := 252 }) = .encRsvd 1 1 1 252 ∧
  decode (.request { var := 0b00, send := 5, recv := 6, flags := 0x3F, paylen := 7 }) = .encData 5 6 0x3F 7 ∧
  decode (.request { var := 0b01, send := 0, recv := 2, flags := 0, paylen := 0 }) = .encAck 0 2 0 0 ∧
  decode (.request { var := 0b11, send := 0, recv := 0, flags := 0x15, paylen := 0 }) = .encSig 0 0 0x15 0

/-- R63: the step RX.BUF, on the state of the transaction level (which `RXH` is not part of). Enabled exactly when both
valid bits are 0; then the record is `DecodeBuffer` of the buffer, the ack frame is made exactly for a good data frame
with `ack_en` = 1, `RXN` stays 0, and nothing else is written. Not enabled, RX has no step and the block does not change;
that the model's step then passes over the offer and takes it off the list is the model's choice (assumption log 5). -/
def Obligations.RxBufStepCommitsTheBuffer : Prop :=
  ∀ (s : State) (B : List Byte) (e : Bool) (rest : List HostAction),
    s.script = .stimulus (.buffer B e) :: rest →
    ∃ t : State, step s = .next t ∧ t.script = rest ∧
      ((s.fcu.rxrV = false ∧ s.fcu.akrV = false) →
        t.fcu.rxr = decodeBuffer B ∧ t.fcu.rxrV = true ∧
        (((decodeBuffer B).err = 0#2 ∧ (decodeBuffer B).var = 0b00#2 ∧ e = true) →
          t.fcu.akr = frameWord (encodeAck (decodeBuffer B).nrecv).bytes ∧ t.fcu.akrV = true) ∧
        (¬((decodeBuffer B).err = 0#2 ∧ (decodeBuffer B).var = 0b00#2 ∧ e = true) →
          t.fcu.akr = s.fcu.akr ∧ t.fcu.akrV = false) ∧
        (s.fcu.rxn = 0 → t.fcu.rxn = 0) ∧ t.got = s.got ∧ t.fresh = s.fresh) ∧
      ((s.fcu.rxrV = true ∨ s.fcu.akrV = true) → t.fcu = s.fcu)

/-- R64: the step RX.BYTE: the capture, `RXN` counting to 6 and staying there, and the commit on the last byte, with
`ack_en` read only there. Not enabled, the block does not change; that the model's step then passes over the offered
byte and takes it off the list, where the spec lets it wait (R103), is the model's choice (assumption log 5). -/
def Obligations.RxByteStepCapturesAndCommits : Prop :=
  ∀ (s : State) (d : Byte) (last e : Bool) (rest : List HostAction), s.script = .rxByte d last e :: rest →
    ∃ t : State, step s = .next t ∧ t.script = rest ∧
      ((s.fcu.rxrV = false ∧ s.fcu.akrV = false) →
        t.got = s.got ∧
        (s.fcu.rxn.val < 6 → headerBytes t.fcu.rxh = (headerBytes s.fcu.rxh).set s.fcu.rxn.val d) ∧
        (s.fcu.rxn.val = 6 → t.fcu.rxh = s.fcu.rxh) ∧
        (last = false →
          t.fcu.rxn.val = min (s.fcu.rxn.val + 1) 6 ∧ t.fcu.rxr = s.fcu.rxr ∧ t.fcu.rxrV = false ∧
          t.fcu.akr = s.fcu.akr ∧ t.fcu.akrV = false) ∧
        (last = true →
          ∃ rec : Record,
            rec = decodeBuffer ((headerBytes t.fcu.rxh).take (min (s.fcu.rxn.val + 1) 6)) ∧
            t.fcu.rxn = 0 ∧ t.fcu.rxr = rec ∧ t.fcu.rxrV = true ∧
            ((rec.err = 0#2 ∧ rec.var = 0b00#2 ∧ e = true) →
              t.fcu.akr = frameWord (encodeAck rec.nrecv).bytes ∧ t.fcu.akrV = true) ∧
            (¬(rec.err = 0#2 ∧ rec.var = 0b00#2 ∧ e = true) → t.fcu.akr = s.fcu.akr ∧ t.fcu.akrV = false))) ∧
      ((s.fcu.rxrV = true ∨ s.fcu.akrV = true) → t.fcu = s.fcu)

/-- R102: the level of `ack_en` at a byte that is not the last has no effect on the step, at any state. -/
def Obligations.AckEnableIsReadOnlyAtTheCommit : Prop :=
  ∀ (s₁ s₂ : State) (d : Byte) (rest : List HostAction),
    s₁.script = .rxByte d false true :: rest → s₂.script = .rxByte d false false :: rest →
    s₁.fcu = s₂.fcu → s₁.got = s₂.got → s₁.fresh = s₂.fresh → step s₁ = step s₂

/-- R67: the step RXR.TAKE. Enabled iff `RXR_V` = 1: the host receives the seven fields, `RXR_V` becomes 0, and nothing
else changes, `AKR_V` included. Not enabled, the block does not change and no record is received; that there is a next
state then, with the action taken off the list, is the model's choice (assumption log 5). -/
def Obligations.RecordTakeHandsOverTheRecord : Prop :=
  ∀ (s : State) (rest : List HostAction), s.script = .takeRec :: rest →
    (s.fcu.rxrV = true →
      step s = .next { s with fcu := { s.fcu with rxrV := false }, script := rest
                              got := s.got ++ [.record s.fcu.rxr] }) ∧
    (s.fcu.rxrV = false →
      ∃ t : State, step s = .next t ∧ t.fcu = s.fcu ∧ t.script = rest ∧ recordsTaken t = recordsTaken s ∧
        acksTaken t = acksTaken s)

/-- R78: the step ACK.TAKE. Enabled iff `AKR_V` = 1: the host receives the frame word, `AKR_V` becomes 0, and nothing else
changes. Not enabled, the block does not change and no ack frame is received; that there is a next state then, with the
action taken off the list, is the model's choice (assumption log 5). -/
def Obligations.AckTakeHandsOverTheFrame : Prop :=
  ∀ (s : State) (rest : List HostAction), s.script = .takeAck :: rest →
    (s.fcu.akrV = true →
      step s = .next { s with fcu := { s.fcu with akrV := false }, script := rest
                              got := s.got ++ [.ackFrame s.fcu.akr] }) ∧
    (s.fcu.akrV = false →
      ∃ t : State, step s = .next t ∧ t.fcu = s.fcu ∧ t.script = rest ∧ recordsTaken t = recordsTaken s ∧
        acksTaken t = acksTaken s)

/-- R94: the two takes commute: from a state with both waiting, either order leaves the same block and gives the host the
same record and the same ack frame. -/
def Obligations.TakesCommute : Prop :=
  ∀ (s : State) (rest : List HostAction), s.fcu.rxrV = true → s.fcu.akrV = true →
    ∃ t u : State,
      Host.Core.run Sys2Proof.core 2 { s with script := .takeRec :: .takeAck :: rest } = .next t ∧
      Host.Core.run Sys2Proof.core 2 { s with script := .takeAck :: .takeRec :: rest } = .next u ∧
      t.fcu = u.fcu ∧ t.fcu = { s.fcu with rxrV := false, akrV := false } ∧
      recordsTaken t = recordsTaken s ++ [s.fcu.rxr] ∧ recordsTaken u = recordsTaken t ∧
      acksTaken t = acksTaken s ++ [s.fcu.akr] ∧ acksTaken u = acksTaken t

/-- R103: a hold is lifted by the takes: from any state, after one record take and one ack take RX is enabled, and
nothing that waited was lost. Where only one output or none waits, a take that is not enabled is passed over, which is the
model's choice and not in R103 (assumption log 5). -/
def Obligations.TakesLiftEveryHold : Prop :=
  ∀ (s : State) (rest : List HostAction), s.script = .takeRec :: .takeAck :: rest →
    ∃ t : State, Host.Core.run Sys2Proof.core 2 s = .next t ∧ rxReady t.fcu = true ∧ t.script = rest ∧
      recordsTaken t = recordLedger s ∧ acksTaken t = ackLedger s

/-- R88: an error leaves no trace. A buffer that is no frame, its record taken, and then any buffer end in the block
state that the buffer alone ends in. -/
def Obligations.AnErrorRecordLeavesNoTrace : Prop :=
  ∀ (s : State) (bad B : List Byte) (e e' : Bool) (rest : List HostAction),
    s.fcu.rxrV = false → s.fcu.akrV = false → (decodeBuffer bad).err ≠ 0#2 →
    ∃ t u : State,
      Host.Core.run Sys2Proof.core 3
        { s with script := .stimulus (.buffer bad e) :: .takeRec :: .stimulus (.buffer B e') :: rest } = .next t ∧
      Host.Core.run Sys2Proof.core 1 { s with script := .stimulus (.buffer B e') :: rest } = .next u ∧
      t.fcu = u.fcu ∧ t.script = u.script ∧ t.got = u.got ++ [.record (decodeBuffer bad)]

/-! ## Ports and clock edges -/

/-- R22: the output ports at a clock edge, as the host sees them: with `rst` = 0 the ready and valid outputs and, where
valid, the data outputs are those of the state, whatever the other inputs are; with `rst` = 1 the ready and the two valids
are 0; the encode outputs always follow the request. A data output whose valid is 0 is unspecified, so nothing is said of
it. -/
def Obligations.OutputsFollowTheState : Prop :=
  ∀ (s : State) (p : Pins) (rest : List HostAction), s.script = .edge p :: rest →
    ∃ (t : State) (o : Outputs) (more : List Event), step s = .next t ∧ t.got = s.got ++ .ports o :: more ∧
      (p.rst = false →
        o.rxReady = (!s.fcu.rxrV && !s.fcu.akrV) ∧ o.rxrValid = s.fcu.rxrV ∧ o.ackValid = s.fcu.akrV ∧
        (s.fcu.rxrV = true → o.rxr = s.fcu.rxr) ∧ (s.fcu.akrV = true → o.ackFrame = s.fcu.akr)) ∧
      (p.rst = true → o.rxReady = false ∧ o.rxrValid = false ∧ o.ackValid = false) ∧
      o.encErr = (encodeRequest p.enc).err ∧
      o.encFrame = (if (encodeRequest p.enc).err = 0 then frameWord (encodeRequest p.enc).bytes else 0)

/-- R98: at an edge with `rst` = 1 RESET is taken and nothing else: no transfer on any group, whatever the valid and
ready levels, the three hand-shake outputs are 0, and the encode outputs keep following the request. -/
def Obligations.ResetWinsAtAClockEdge : Prop :=
  ∀ (s : State) (p : Pins) (rest : List HostAction), s.script = .edge p :: rest → p.rst = true →
    ∃ (t : State) (o : Outputs), step s = .next t ∧ t.script = rest ∧ t.got = s.got ++ [.ports o] ∧
      t.fcu.rxn = 0 ∧ t.fcu.rxrV = false ∧ t.fcu.akrV = false ∧
      o.rxReady = false ∧ o.rxrValid = false ∧ o.ackValid = false ∧
      o.encErr = (encodeRequest p.enc).err ∧ o.encFrame = encWord (encodeRequest p.enc)

/-- R21, R94: at an edge with `rst` = 0 a group transfers exactly when its valid and its ready are both 1. An RX transfer
is one RX.BYTE step and excludes the takes; otherwise each take happens or not by its own pair of levels, and nothing
else of the block changes. -/
def Obligations.ClockEdgeTransfersWhereValidAndReady : Prop :=
  ∀ (s : State) (p : Pins) (rest : List HostAction), s.script = .edge p :: rest → p.rst = false →
    ∃ t : State, step s = .next t ∧ t.script = rest ∧
      (p.rxValid = true ∧ rxReady s.fcu = true →
        ∃ u : State, step { s with script := .rxByte p.rxData p.rxLast p.ackEn :: rest } = .next u ∧
          t.fcu = u.fcu ∧ recordsTaken t = recordsTaken s ∧ acksTaken t = acksTaken s) ∧
      (¬(p.rxValid = true ∧ rxReady s.fcu = true) →
        t.fcu = { s.fcu with rxrV := s.fcu.rxrV && !p.rxrReady, akrV := s.fcu.akrV && !p.ackReady } ∧
        recordsTaken t = recordsTaken s ++ (if s.fcu.rxrV && p.rxrReady then [s.fcu.rxr] else []) ∧
        acksTaken t = acksTaken s ++ (if s.fcu.akrV && p.ackReady then [s.fcu.akr] else []))

/-! ## Headline results -/

/-- R65: the two levels agree. From a state between buffers with nothing waiting, the byte steps of a buffer of at least
one byte, whatever `ack_en` is before the last, are all enabled and leave `RXN`, `RXR`, `RXR_V`, `AKR`, `AKR_V` exactly as
the one step RX.BUF does. After k non-last bytes `RXN` is min(k, 6) and the capture registers below it hold the first
bytes; no take is enabled between the bytes, and an encode request answered there changes nothing of the block. -/
def Obligations.ByteStepsAgreeWithTheBufferStep : Prop :=
  ∀ (s : State) (front : List (Byte × Bool)) (lastByte : Byte) (e : Bool) (rest : List HostAction),
    s.fcu.rxn = 0 → s.fcu.rxrV = false → s.fcu.akrV = false →
    s.script = byteActions front lastByte e ++ rest →
    (∃ t u : State,
      Host.Core.run Sys2Proof.core (front.length + 1) s = .next t ∧
      step { s with script := .stimulus (.buffer (front.map Prod.fst ++ [lastByte]) e) :: rest } = .next u ∧
      t.fcu.rxn = u.fcu.rxn ∧ t.fcu.rxr = u.fcu.rxr ∧ t.fcu.rxrV = u.fcu.rxrV ∧ t.fcu.akr = u.fcu.akr ∧
      t.fcu.akrV = u.fcu.akrV ∧ t.script = rest ∧ u.script = rest ∧ t.got = s.got ∧ u.got = s.got) ∧
    (∀ k, k ≤ front.length →
      ∃ m : State, Host.Core.run Sys2Proof.core k s = .next m ∧ m.fcu.rxrV = false ∧ m.fcu.akrV = false ∧
        m.fcu.rxn.val = min k 6 ∧ captured m.fcu = (front.map Prod.fst).take (min k 6) ∧
        ∀ r : Request, ∃ n : State,
          step { m with script := .stimulus (.request r) :: m.script } = .next n ∧ n.fcu = m.fcu ∧ n.script = m.script)

/-- Decode and encode agree for every well-formed operation: the stimulus an operation encodes to decodes to it, a
pseudo-operation to the ENC.SIG it expands to (R51), every operand at every value; only ACKGEN has no stimulus (R77). -/
def Obligations.DecodeOfEncodeIsTheOperation : Prop :=
  (∀ (i : Instr) (x : Stimulus), i.wellFormed = true → encode i = some x → decode x = expand i) ∧
  (∀ i : Instr, encode i = none ↔ ∃ v, i = .ackgen v)

/-- No bit is dropped: the operation of a buffer encodes to the same bytes, and for a data frame with the same level of
`ack_en`; the operation of a request encodes to the same request. That the ignored bits are operands is the model's form
(assumption log 11). -/
def Obligations.EncodeOfDecodeKeepsEveryBit : Prop :=
  (∀ (b : List Byte) (e : Bool), ∃ e', encode (decode (.buffer b e)) = some (.buffer b e') ∧
    ((∃ l v w t a, decode (.buffer b e) = .rxData l v w t a e) → e' = e)) ∧
  (∀ r : Request, encode (decode (.request r)) = some (.request r))

/-- The invariant holds at reset (R19). -/
def Obligations.InvariantHoldsAtReset : Prop := Inv State.reset

/-- Every step keeps the invariant: a waiting record is one of the five kinds (R13, R84), a waiting ack frame is an ack
frame (R14), both together are of one data buffer (R77, R80), and while anything waits `RXN` is 0 (R11). The last part
rests, for RX.BUF in a state with `RXN` not 0, on the model's choice (assumption log 6). -/
def Obligations.EveryStepKeepsTheInvariant : Prop :=
  ∀ s t : State, Inv s → step s = .next t → Inv t

/-- No step faults or refuses, every operation completes in every state, and a step takes exactly one action off the
host's list and changes none of the others: errors are no traps (R87) and an inbound buffer is never altered (R23, R95).
For an operation or action that is not enabled, where the spec has no step (R63), it is the model's choice that there is
a next state and that the action is passed over (assumption log 5; for ACKGEN alone, log 9). The list of actions is the
model's too (assumption log 1). -/
def Obligations.EveryStepCompletes : Prop :=
  (∀ (i : Instr) (s : State), ∃ t : State, exec i s = .next t ∧ t.script = s.script ∧ t.fresh = s.fresh) ∧
  (∀ s : State, ∃ t : State, step s = .next t ∧ t.script = s.script.tail)

/-- R31: the records leave in the order of the buffers; a buffer that found RX held counts when it is offered again
(assumption log 5). Over any run without a reset, from any state, the records taken
and waiting are those of before followed by `DecodeBuffer` of each committed buffer, in order: none is lost, repeated or
overwritten. -/
def Obligations.RecordsFollowTheBuffersInOrder : Prop :=
  ∀ (k : Nat) (s t : State), (∀ a ∈ s.script.take k, resets a = false) →
    Host.Core.run Sys2Proof.core k s = .next t →
    recordLedger t = recordLedger s ++ (commits k s).map (fun c => decodeBuffer c.1)

/-- R82: the ack frames taken, and the one that may still wait in `AKR`, are those of before followed by
`EncodeAck(AckValue(s_i))` for the send numbers of the committed good data frames with `ack_en` = 1, in commit order. -/
def Obligations.AckFramesFollowTheDataFramesInOrder : Prop :=
  ∀ (k : Nat) (s t : State), (∀ a ∈ s.script.take k, resets a = false) →
    Host.Core.run Sys2Proof.core k s = .next t →
    ackLedger t = ackLedger s ++ (commits k s).filterMap ackDue
end

