-- ==== Sys2Proof/Laws/State.lean ====
section
/-! SUPPORT. The small lemmas of the state's updates: what each leaves in each field, true by `rfl`. -/

namespace Sys2Proof.Laws

open Machine Safety

/-! ## The host side: `State.tell`, `State.setFcu` -/

@[simp] theorem tell_fcu (s : State) (e : Event) : (s.tell e).fcu = s.fcu := rfl
@[simp] theorem tell_script (s : State) (e : Event) : (s.tell e).script = s.script := rfl
@[simp] theorem tell_got (s : State) (e : Event) : (s.tell e).got = s.got ++ [e] := rfl
@[simp] theorem tell_fresh (s : State) (e : Event) : (s.tell e).fresh = s.fresh := rfl

@[simp] theorem setFcu_fcu (s : State) (f : Fcu) : (s.setFcu f).fcu = f := rfl
@[simp] theorem setFcu_script (s : State) (f : Fcu) : (s.setFcu f).script = s.script := rfl
@[simp] theorem setFcu_got (s : State) (f : Fcu) : (s.setFcu f).got = s.got := rfl
@[simp] theorem setFcu_fresh (s : State) (f : Fcu) : (s.setFcu f).fresh = s.fresh := rfl

/-! ## The block: `commitRecord`, `ackGen`, `capture` -/

@[simp] theorem commitRecord_rxn (r : Record) (f : Fcu) : (commitRecord r f).rxn = 0 := rfl
@[simp] theorem commitRecord_rxh (r : Record) (f : Fcu) : (commitRecord r f).rxh = f.rxh := rfl
@[simp] theorem commitRecord_rxr (r : Record) (f : Fcu) : (commitRecord r f).rxr = r := rfl
@[simp] theorem commitRecord_rxrV (r : Record) (f : Fcu) : (commitRecord r f).rxrV = true := rfl
@[simp] theorem commitRecord_akr (r : Record) (f : Fcu) : (commitRecord r f).akr = f.akr := rfl
@[simp] theorem commitRecord_akrV (r : Record) (f : Fcu) : (commitRecord r f).akrV = f.akrV := rfl

@[simp] theorem ackGen_rxn (v : Seq15) (f : Fcu) : (ackGen v f).rxn = f.rxn := rfl
@[simp] theorem ackGen_rxh (v : Seq15) (f : Fcu) : (ackGen v f).rxh = f.rxh := rfl
@[simp] theorem ackGen_rxr (v : Seq15) (f : Fcu) : (ackGen v f).rxr = f.rxr := rfl
@[simp] theorem ackGen_rxrV (v : Seq15) (f : Fcu) : (ackGen v f).rxrV = f.rxrV := rfl
@[simp] theorem ackGen_akr (v : Seq15) (f : Fcu) : (ackGen v f).akr = frameWord (encodeAck v).bytes := rfl
@[simp] theorem ackGen_akrV (v : Seq15) (f : Fcu) : (ackGen v f).akrV = true := rfl

@[simp] theorem capture_rxn (d : Byte) (f : Fcu) : (capture d f).rxn.val = min (f.rxn.val + 1) 6 := rfl
@[simp] theorem capture_rxh (d : Byte) (f : Fcu) : (capture d f).rxh = setHeaderByte f.rxh f.rxn.val d := rfl
@[simp] theorem capture_rxr (d : Byte) (f : Fcu) : (capture d f).rxr = f.rxr := rfl
@[simp] theorem capture_rxrV (d : Byte) (f : Fcu) : (capture d f).rxrV = f.rxrV := rfl
@[simp] theorem capture_akr (d : Byte) (f : Fcu) : (capture d f).akr = f.akr := rfl
@[simp] theorem capture_akrV (d : Byte) (f : Fcu) : (capture d f).akrV = f.akrV := rfl
@[simp] theorem capture_rxReady (d : Byte) (f : Fcu) : rxReady (capture d f) = rxReady f := rfl

/-! ## The takes, the reset, the observation -/

@[simp] theorem giveRecord_fcu (s : State) : (giveRecord s).fcu = { s.fcu with rxrV := false } := rfl
@[simp] theorem giveRecord_script (s : State) : (giveRecord s).script = s.script := rfl
@[simp] theorem giveRecord_got (s : State) : (giveRecord s).got = s.got ++ [.record s.fcu.rxr] := rfl
@[simp] theorem giveRecord_fresh (s : State) : (giveRecord s).fresh = s.fresh := rfl

@[simp] theorem giveAck_fcu (s : State) : (giveAck s).fcu = { s.fcu with akrV := false } := rfl
@[simp] theorem giveAck_script (s : State) : (giveAck s).script = s.script := rfl
@[simp] theorem giveAck_got (s : State) : (giveAck s).got = s.got ++ [.ackFrame s.fcu.akr] := rfl
@[simp] theorem giveAck_fresh (s : State) : (giveAck s).fresh = s.fresh := rfl

@[simp] theorem resetStep_rxn (s : State) : (resetStep s).fcu.rxn = 0 := rfl
@[simp] theorem resetStep_rxrV (s : State) : (resetStep s).fcu.rxrV = false := rfl
@[simp] theorem resetStep_akrV (s : State) : (resetStep s).fcu.akrV = false := rfl
@[simp] theorem resetStep_script (s : State) : (resetStep s).script = s.script := rfl
@[simp] theorem resetStep_got (s : State) : (resetStep s).got = s.got := rfl
@[simp] theorem resetStep_fresh (s : State) : (resetStep s).fresh = s.fresh + 1 := rfl

@[simp] theorem observe_fcu (p : Pins) (s : State) : (observe p s).fcu = s.fcu := rfl
@[simp] theorem observe_script (p : Pins) (s : State) : (observe p s).script = s.script := rfl
@[simp] theorem observe_got (p : Pins) (s : State) : (observe p s).got = s.got ++ [.ports (outputs p s)] := rfl
@[simp] theorem observe_fresh (p : Pins) (s : State) : (observe p s).fresh = s.fresh + 1 := rfl

/-! ## What the host has taken -/

/-- The records taken depend only on what the host got. -/
theorem recordsTaken_of_got {s t : State} (h : t.got = s.got) : recordsTaken t = recordsTaken s := by
  simp [recordsTaken, h]

/-- The ack frames taken depend only on what the host got. -/
theorem acksTaken_of_got {s t : State} (h : t.got = s.got) : acksTaken t = acksTaken s := by
  simp [acksTaken, h]

@[simp] theorem recordsTaken_setFcu (s : State) (f : Fcu) : recordsTaken (s.setFcu f) = recordsTaken s := rfl
@[simp] theorem acksTaken_setFcu (s : State) (f : Fcu) : acksTaken (s.setFcu f) = acksTaken s := rfl

@[simp] theorem recordsTaken_giveRecord (s : State) :
    recordsTaken (giveRecord s) = recordsTaken s ++ [s.fcu.rxr] := by
  simp [recordsTaken]

@[simp] theorem acksTaken_giveRecord (s : State) : acksTaken (giveRecord s) = acksTaken s := by
  simp [acksTaken]

@[simp] theorem recordsTaken_giveAck (s : State) : recordsTaken (giveAck s) = recordsTaken s := by
  simp [recordsTaken]

@[simp] theorem acksTaken_giveAck (s : State) : acksTaken (giveAck s) = acksTaken s ++ [s.fcu.akr] := by
  simp [acksTaken]

@[simp] theorem recordsTaken_held (s : State) (g : Group) : recordsTaken (s.tell (.held g)) = recordsTaken s := by
  simp [recordsTaken]

@[simp] theorem acksTaken_held (s : State) (g : Group) : acksTaken (s.tell (.held g)) = acksTaken s := by
  simp [acksTaken]

@[simp] theorem recordsTaken_answer (s : State) (e : Code2) (w : Word48) :
    recordsTaken (s.tell (.answer e w)) = recordsTaken s := by
  simp [recordsTaken]

@[simp] theorem acksTaken_answer (s : State) (e : Code2) (w : Word48) :
    acksTaken (s.tell (.answer e w)) = acksTaken s := by
  simp [acksTaken]

@[simp] theorem recordsTaken_observe (p : Pins) (s : State) : recordsTaken (observe p s) = recordsTaken s := by
  simp [recordsTaken]

@[simp] theorem acksTaken_observe (p : Pins) (s : State) : acksTaken (observe p s) = acksTaken s := by
  simp [acksTaken]

end Sys2Proof.Laws
end

