-- ==== Sys2Proof/Laws/Ops.lean ====
section
/-! SUPPORT. One lemma per shared operation, saying once everything it can do; later proofs cite these and do not unfold
the operation. -/

namespace Sys2Proof.Laws

open Machine Safety

/-- RX is enabled exactly when nothing waits. -/
theorem rxReady_iff (f : Fcu) : rxReady f = true ↔ f.rxrV = false ∧ f.akrV = false := by
  simp [rxReady]

theorem rxReady_eq_false_iff (f : Fcu) : rxReady f = false ↔ f.rxrV = true ∨ f.akrV = true := by
  cases h₁ : f.rxrV <;> cases h₂ : f.akrV <;> simp [rxReady, h₁, h₂]

/-- An RX commit either updates the block or is held. -/
theorem rxCommit_cases {u : Fcu → Fcu} {s t : State} (h : rxCommit u s = .next t) :
    (rxReady s.fcu = true ∧ t = s.setFcu (u s.fcu)) ∨ (rxReady s.fcu = false ∧ t = s.tell (.held .rxIn)) := by
  unfold rxCommit at h
  split at h
  · rename_i hr
    exact .inl ⟨hr, by cases h; rfl⟩
  · rename_i hr
    exact .inr ⟨by simpa using hr, by cases h; rfl⟩

theorem rxCommit_of_ready {u : Fcu → Fcu} {s : State} (h : rxReady s.fcu = true) :
    rxCommit u s = .next (s.setFcu (u s.fcu)) := by
  simp [rxCommit, h]

theorem rxCommit_of_held {u : Fcu → Fcu} {s : State} (h : rxReady s.fcu = false) :
    rxCommit u s = .next (s.tell (.held .rxIn)) := by
  simp [rxCommit, h]

/-- RXR.TAKE hands the record over or is not enabled. -/
theorem takeRec_cases {s t : State} (h : takeRec s = .next t) :
    (s.fcu.rxrV = true ∧ t = giveRecord s) ∨ (s.fcu.rxrV = false ∧ t = s.tell (.held .recordOut)) := by
  unfold takeRec rxrValid at h
  split at h
  · rename_i hv
    exact .inl ⟨hv, by cases h; rfl⟩
  · rename_i hv
    exact .inr ⟨by simpa using hv, by cases h; rfl⟩

/-- ACK.TAKE hands the frame over or is not enabled. -/
theorem takeAck_cases {s t : State} (h : takeAck s = .next t) :
    (s.fcu.akrV = true ∧ t = giveAck s) ∨ (s.fcu.akrV = false ∧ t = s.tell (.held .ackOut)) := by
  unfold takeAck ackValid at h
  split at h
  · rename_i hv
    exact .inl ⟨hv, by cases h; rfl⟩
  · rename_i hv
    exact .inr ⟨by simpa using hv, by cases h; rfl⟩

/-- ENC's step gives the host one answer and changes nothing else. -/
theorem answerRequest_eq (e : EncResult) (s : State) :
    answerRequest e s = .next (s.tell (.answer e.err (encWord e))) := rfl

/-- ACKGEN alone writes the frame or, with one waiting, is held. -/
theorem execAckgen_cases {v : Seq15} {s t : State} (h : execAckgen v s = .next t) :
    (s.fcu.akrV = false ∧ t = s.setFcu (ackGen v s.fcu)) ∨ (s.fcu.akrV = true ∧ t = s.tell (.held .rxIn)) := by
  unfold execAckgen ackValid at h
  split at h
  · rename_i hv
    exact .inr ⟨hv, by cases h; rfl⟩
  · rename_i hv
    exact .inl ⟨by simpa using hv, by cases h; rfl⟩

/-- The bytes `RXH[0..5]` after a write of one of them. -/
theorem headerBytes_setHeaderByte (h : Header) (i : Nat) (d : Byte) :
    headerBytes (setHeaderByte h i d) = (headerBytes h).set i d := by
  match i with
  | 0 => rfl
  | 1 => rfl
  | 2 => rfl
  | 3 => rfl
  | 4 => rfl
  | 5 => rfl
  | _ + 6 => rfl

@[simp] theorem headerBytes_length (h : Header) : (headerBytes h).length = 6 := rfl

/-- The captured bytes after one more byte: it is appended while there is room, and dropped after that. -/
theorem captured_capture (d : Byte) (f : Fcu) :
    captured (capture d f) = if f.rxn.val < 6 then captured f ++ [d] else captured f := by
  obtain ⟨⟨n, hn⟩, h, r, v, a, w⟩ := f
  have : n = 0 ∨ n = 1 ∨ n = 2 ∨ n = 3 ∨ n = 4 ∨ n = 5 ∨ n = 6 := by omega
  rcases this with rfl | rfl | rfl | rfl | rfl | rfl | rfl <;> rfl

/-- The block after the commit of a buffer, in the terms of `DecodeBuffer` (R63). -/
def commitFcu (b : List Byte) (e : Bool) (f : Fcu) : Fcu :=
  if (decodeBuffer b).err = 0#2 ∧ (decodeBuffer b).var = 0b00#2 ∧ e = true then
    ackGen (decodeBuffer b).nrecv (commitRecord (decodeBuffer b) f)
  else commitRecord (decodeBuffer b) f

@[simp] theorem commitFcu_rxn (b : List Byte) (e : Bool) (f : Fcu) : (commitFcu b e f).rxn = 0 := by
  unfold commitFcu; split <;> rfl

@[simp] theorem commitFcu_rxh (b : List Byte) (e : Bool) (f : Fcu) : (commitFcu b e f).rxh = f.rxh := by
  unfold commitFcu; split <;> rfl

@[simp] theorem commitFcu_rxr (b : List Byte) (e : Bool) (f : Fcu) : (commitFcu b e f).rxr = decodeBuffer b := by
  unfold commitFcu; split <;> rfl

@[simp] theorem commitFcu_rxrV (b : List Byte) (e : Bool) (f : Fcu) : (commitFcu b e f).rxrV = true := by
  unfold commitFcu; split <;> rfl

/-- A triggering commit writes the ack frame. -/
theorem commitFcu_ack {b : List Byte} {e : Bool} {f : Fcu}
    (h : (decodeBuffer b).err = 0#2 ∧ (decodeBuffer b).var = 0b00#2 ∧ e = true) :
    (commitFcu b e f).akr = frameWord (encodeAck (decodeBuffer b).nrecv).bytes ∧ (commitFcu b e f).akrV = true := by
  rw [commitFcu, if_pos h]; exact ⟨rfl, rfl⟩

/-- Any other commit leaves `AKR` and `AKR_V`. -/
theorem commitFcu_no_ack {b : List Byte} {e : Bool} {f : Fcu}
    (h : ¬((decodeBuffer b).err = 0#2 ∧ (decodeBuffer b).var = 0b00#2 ∧ e = true)) :
    (commitFcu b e f).akr = f.akr ∧ (commitFcu b e f).akrV = f.akrV := by
  rw [commitFcu, if_neg h]; exact ⟨rfl, rfl⟩

/-- What decoding a buffer can select: one of the five RX operations, its record the one `DecodeBuffer` gives, and the
ack frame's condition in the terms of the record. -/
theorem exec_decode_buffer (b : List Byte) (e : Bool) (s : State) :
    exec (decode (.buffer b e)) s = rxCommit (commitFcu b e) s := by
  unfold commitFcu
  match b with
  | b0 :: b1 :: b2 :: b3 :: b4 :: b5 :: tail =>
    by_cases hm : b0 = marker
    · cases hc : classify b2
      · cases e <;>
          (simp [decode, decodeBytes, decodeFrame, decodeBuffer, decodeHeader, hm, hc, exec, execRxData, dataRecord,
            variantCode, sendOf, recvOf]; rfl)
      · simp [decode, decodeBytes, decodeFrame, decodeBuffer, decodeHeader, hm, hc, exec, execRxAck, ackRecord,
          variantCode, recvOf]
      · simp [decode, decodeBytes, decodeFrame, decodeBuffer, decodeHeader, hm, hc, exec, execRxSig, signalRecord,
          variantCode, flagsOf]
    · simp [decode, decodeBytes, decodeBuffer, decodeHeader, hm, exec, execRxBadmark, errorRecord, formatErrorCode,
        varNone]
  | [] | [_] | [_, _] | [_, _, _] | [_, _, _, _] | [_, _, _, _, _] =>
    simp [decode, decodeBytes, decodeBuffer, decodeHeader, exec, execRxShort, errorRecord, formatErrorCode, varNone]

/-- Decoding a request gives the answer of `Encode`. -/
theorem exec_decode_request (r : Request) (s : State) :
    exec (decode (.request r)) s = answerRequest (encodeRequest r) s := by
  simp only [decode, decodeRequest, encodeRequest]
  split
  · rfl
  · split
    · rfl
    · split <;> rfl

/-- RX.BYTE is held, or captures, or captures and commits what was captured. -/
theorem rxByte_eq (d : Byte) (last e : Bool) (s : State) :
    rxByte d last e s =
      if rxReady s.fcu = false then .next (s.tell (.held .rxIn))
      else if last = false then .next (s.setFcu (capture d s.fcu))
      else exec (decode (.buffer (captured (capture d s.fcu)) e)) (s.setFcu (capture d s.fcu)) := by
  unfold rxByte
  cases rxReady s.fcu <;> cases last <;> rfl

/-- What one step does: idle, or the first action performed. -/
theorem step_nil {s : State} (h : s.script = []) : step s = .next s := by
  simp [step, runNext, h]

theorem step_cons {s : State} {a : HostAction} {rest : List HostAction} (h : s.script = a :: rest) :
    step s = perform a { s with script := rest } := by
  simp [step, runNext, h]

end Sys2Proof.Laws
end

