-- ==== Sys2Proof/Laws/PerInstr.lean ====
section
/-! SUPPORT. The law stated per instruction: an operation and what it expands to (R51) have the same stimulus and the
same well-formedness, and the expansion expands to itself. One lemma per constructor. -/

namespace Sys2Proof.Laws.Expansion

/-- The operation's expansion is selected by the same stimulus, is well formed with it, and is final. -/
def Statement (i : Instr) : Prop :=
  encode (expand i) = encode i ∧ (expand i).wellFormed = i.wellFormed ∧ expand (expand i) = expand i

theorem rxShort (b : List Byte) : Statement (.rxShort b) := ⟨rfl, rfl, rfl⟩

theorem rxBadmark (start : Byte) (rest : List Byte) : Statement (.rxBadmark start rest) := ⟨rfl, rfl, rfl⟩

theorem rxData (length : Byte) (send recv : Seq15) (c3tag : BitVec 1) (adu : List Byte) (ackEn : Bool) :
    Statement (.rxData length send recv c3tag adu ackEn) := ⟨rfl, rfl, rfl⟩

theorem rxAck (length : Byte) (recv : Seq15) (c1high : BitVec 6) (c2 : Byte) (c3tag : BitVec 1) (rest : List Byte) :
    Statement (.rxAck length recv c1high c2 c3tag rest) := ⟨rfl, rfl, rfl⟩

theorem rxSig (length : Byte) (flags : Flags6) (c2 c3 c4 : Byte) (rest : List Byte) :
    Statement (.rxSig length flags c2 c3 c4 rest) := ⟨rfl, rfl, rfl⟩

theorem encData (send recv : Seq15) (flags : Flags6) (paylen : Byte) :
    Statement (.encData send recv flags paylen) := ⟨rfl, rfl, rfl⟩

theorem encAck (send recv : Seq15) (flags : Flags6) (paylen : Byte) :
    Statement (.encAck send recv flags paylen) := ⟨rfl, rfl, rfl⟩

theorem encSig (send recv : Seq15) (flags : Flags6) (paylen : Byte) :
    Statement (.encSig send recv flags paylen) := ⟨rfl, rfl, rfl⟩

theorem encRsvd (send recv : Seq15) (flags : Flags6) (paylen : Byte) :
    Statement (.encRsvd send recv flags paylen) := ⟨rfl, rfl, rfl⟩

theorem ackgen (v : Seq15) : Statement (.ackgen v) := ⟨rfl, rfl, rfl⟩

theorem startAct : Statement .startAct := ⟨rfl, rfl, rfl⟩

theorem startCon : Statement .startCon := ⟨rfl, rfl, rfl⟩

theorem stopAct : Statement .stopAct := ⟨rfl, rfl, rfl⟩

theorem stopCon : Statement .stopCon := ⟨rfl, rfl, rfl⟩

theorem testAct : Statement .testAct := ⟨rfl, rfl, rfl⟩

theorem testCon : Statement .testCon := ⟨rfl, rfl, rfl⟩

end Sys2Proof.Laws.Expansion
end

