-- ==== Sys2Proof/Laws/Step.lean ====
section
/-! SUPPORT. What one step does, host action by host action, and how runs compose: the lemmas the proofs about `step` cite
instead of unfolding it. -/

namespace Sys2Proof.Laws

open Machine Safety

/-! ## RX.BUF and RX.BYTE -/

theorem step_buffer_ready {s : State} {b : List Byte} {e : Bool} {rest : List HostAction}
    (h : s.script = .stimulus (.buffer b e) :: rest) (hr : rxReady s.fcu = true) :
    step s = .next { s with script := rest, fcu := commitFcu b e s.fcu } :=
  ((step_cons h).trans (exec_decode_buffer b e { s with script := rest })).trans (rxCommit_of_ready hr)

theorem step_buffer_held {s : State} {b : List Byte} {e : Bool} {rest : List HostAction}
    (h : s.script = .stimulus (.buffer b e) :: rest) (hr : rxReady s.fcu = false) :
    step s = .next { s with script := rest, got := s.got ++ [.held .rxIn] } :=
  ((step_cons h).trans (exec_decode_buffer b e { s with script := rest })).trans (rxCommit_of_held hr)

theorem step_request {s : State} {r : Request} {rest : List HostAction}
    (h : s.script = .stimulus (.request r) :: rest) :
    step s = .next ({ s with script := rest }.tell (.answer (encodeRequest r).err (encWord (encodeRequest r)))) :=
  (step_cons h).trans (exec_decode_request r { s with script := rest })

theorem step_byte_held {s : State} {d : Byte} {last e : Bool} {rest : List HostAction}
    (h : s.script = .rxByte d last e :: rest) (hr : rxReady s.fcu = false) :
    step s = .next { s with script := rest, got := s.got ++ [.held .rxIn] } := by
  rw [step_cons h]
  refine (rxByte_eq ..).trans ?_
  simp [hr]
  rfl

theorem step_byte_inner {s : State} {d : Byte} {e : Bool} {rest : List HostAction}
    (h : s.script = .rxByte d false e :: rest) (hr : rxReady s.fcu = true) :
    step s = .next { s with script := rest, fcu := capture d s.fcu } := by
  rw [step_cons h]
  refine (rxByte_eq ..).trans ?_
  simp [hr]
  rfl

theorem step_byte_last {s : State} {d : Byte} {e : Bool} {rest : List HostAction}
    (h : s.script = .rxByte d true e :: rest) (hr : rxReady s.fcu = true) :
    step s = .next
      { s with script := rest, fcu := commitFcu (captured (capture d s.fcu)) e (capture d s.fcu) } := by
  rw [step_cons h]
  refine (rxByte_eq ..).trans ?_
  simp only [hr, Bool.true_eq_false, if_false]
  exact (exec_decode_buffer ..).trans (rxCommit_of_ready hr)

/-! ## Clock edges -/

/-- The state after an edge with `rst` = 0. -/
def edgeNext (p : Pins) (s : State) : State :=
  if p.rxValid && rxReady s.fcu then
    (observe p s).setFcu
      (if p.rxLast then commitFcu (captured (capture p.rxData s.fcu)) p.ackEn (capture p.rxData s.fcu)
       else capture p.rxData s.fcu)
  else edgeTakes p (observe p s)

theorem clockEdge_of_run {p : Pins} {s : State} (h : p.rst = false) : clockEdge p s = .next (edgeNext p s) := by
  unfold clockEdge edgeNext
  simp only [h, Bool.false_eq_true, if_false]
  split
  · rename_i hh
    simp only [Bool.and_eq_true] at hh
    rw [rxByte_eq]
    simp only [observe_fcu, hh.2, Bool.true_eq_false, if_false]
    cases p.rxLast
    · simp
    · simp only [Bool.true_eq_false, if_false, if_true]
      exact (exec_decode_buffer ..).trans (rxCommit_of_ready hh.2)
  · rfl

theorem clockEdge_of_reset {p : Pins} {s : State} (h : p.rst = true) :
    clockEdge p s = .next (resetStep (observe p s)) := by
  simp [clockEdge, h]

@[simp] theorem edgeTakes_script (p : Pins) (s : State) : (edgeTakes p s).script = s.script := by
  unfold edgeTakes; split <;> split <;> rfl

@[simp] theorem edgeNext_script (p : Pins) (s : State) : (edgeNext p s).script = s.script := by
  unfold edgeNext
  split
  · rfl
  · exact edgeTakes_script ..

/-- What the host gets at an edge goes behind what it had. -/
theorem edgeTakes_got (p : Pins) (s : State) : ∃ more, (edgeTakes p s).got = s.got ++ more := by
  unfold edgeTakes; split <;> split <;> simp

/-! ## Runs -/

theorem run_one {s t : State} (h : step s = .next t) : Host.Core.run Sys2Proof.core 1 s = .next t := by
  simp [Host.Core.run, Sys2Proof.core, h]

/-- A run of k steps and then n more is a run of k + n. -/
theorem run_add {k n : Nat} {s m : State} (h : Host.Core.run Sys2Proof.core k s = .next m) :
    Host.Core.run Sys2Proof.core (k + n) s = Host.Core.run Sys2Proof.core n m := by
  induction k generalizing s with
  | zero => cases h; simp
  | succ k ih =>
    rw [Nat.succ_add]
    simp only [Host.Core.run] at h ⊢
    split at h
    · exact ih h
    · cases h
    · cases h

end Sys2Proof.Laws
end

