-- ==== Sys2Proof/Tests/Slice0.lean ====
section
/-! SUPPORT. The model's own tests. Expected values come from spec/95_test_vectors.md (the section stands in each
comment), not from the model. Each test is about one step on a small state. The witnesses at the end show states and
operands that meet the hypotheses of the statements in Certificates/Slice0/Obligations.lean. -/

namespace Sys2Proof.Tests

open Machine Safety

/-! ## Helpers -/

/-- The block after an outcome. -/
def fcuAfter : Host.Outcome State Fault Refusal → Option Fcu
  | .next t => some t.fcu
  | .fault _ => none
  | .refused _ => none

/-- What the host got, after an outcome. -/
def gotAfter : Host.Outcome State Fault Refusal → Option (List Event)
  | .next t => some t.got
  | .fault _ => none
  | .refused _ => none

/-- The record waiting after an outcome. -/
def recordAfter (o : Host.Outcome State Fault Refusal) : Option Record :=
  match fcuAfter o with
  | some f => if f.rxrV then some f.rxr else none
  | none => none

/-- The ack frame waiting after an outcome. -/
def ackAfter (o : Host.Outcome State Fault Refusal) : Option Word48 :=
  match fcuAfter o with
  | some f => if f.akrV then some f.akr else none
  | none => none

/-- The ack frames the host has taken, after an outcome. -/
def acksTakenAfter : Host.Outcome State Fault Refusal → Option (List Word48)
  | .next t => some (acksTaken t)
  | .fault _ => none
  | .refused _ => none

/-- The machine after reset, the host about to take one action. -/
def withAction (a : HostAction) : State := pushAction a State.reset

/-- A record and its ack frame waiting: `68 0E 02 00 02 00` committed with `ack_en` = 1 (95 section 2.6). -/
def bothWaiting : State :=
  { State.reset with
    fcu := { State.reset.fcu with
      rxr := { err := 0, var := 0, len := 14, send := 1, recv := 1, flags := 0, nrecv := 2 }, rxrV := true
      akr := 0x000400010468, akrV := true } }

/-- Five bytes of a buffer captured. -/
def fiveCaptured : State :=
  { State.reset with
    fcu := { State.reset.fcu with
      rxn := 5, rxh := { start := 0x68, length := 0x0E, c1 := 0x02, c2 := 0x00, c3 := 0x02, c4 := 0xEE } } }

/-- Six bytes of a buffer captured. -/
def sixCaptured : State :=
  { State.reset with
    fcu := { State.reset.fcu with
      rxn := 6, rxh := { start := 0x68, length := 0x0E, c1 := 0x02, c2 := 0x00, c3 := 0x02, c4 := 0x00 } } }

/-- Input ports that do nothing. -/
def quiet : Pins :=
  { rst := false, rxValid := false, rxData := 0, rxLast := false, ackEn := false, rxrReady := false
    ackReady := false, enc := { var := 0b10, send := 0, recv := 0, flags := 0, paylen := 0 } }

/-! ## Well-formedness: an ill-formed term for each check -/

theorem test_rxShort_of_six_bytes_is_ill_formed : (Instr.rxShort [0x68, 4, 1, 0, 0, 0]).wellFormed = false := by decide

theorem test_rxBadmark_with_marker_is_ill_formed :
    (Instr.rxBadmark 0x68 [4, 1, 0, 0, 0]).wellFormed = false := by decide

theorem test_rxBadmark_of_five_bytes_is_ill_formed :
    (Instr.rxBadmark 0x67 [4, 1, 0, 0]).wellFormed = false := by decide

theorem test_rxBadmark_of_six_bytes_is_well_formed :
    (Instr.rxBadmark 0x67 [4, 1, 0, 0, 0]).wellFormed = true := by decide

/-! ## Decoding: words written out from the encodings of 30_encoding.md -/

/-- R49 test 1; 95 section 2.3, `68 04 01 00 00`. -/
theorem test_decode_short : decode (.buffer [0x68, 0x04, 0x01, 0x00, 0x00] true) =
    .rxShort [0x68, 0x04, 0x01, 0x00, 0x00] := by decide

/-- R49 test 2; 95 section 2.3, no search for the marker. -/
theorem test_decode_badmark : decode (.buffer [0x00, 0x68, 0x04, 0x01, 0x00, 0x00, 0x00] true) =
    .rxBadmark 0x00 [0x68, 0x04, 0x01, 0x00, 0x00, 0x00] := by decide

/-- R39: `c1` = 0x68 is send[6:0] = 52, `c2` = 0x24 is send[14:7] = 36, together 4660; `c3` = 0x42 and `c4` = 0x86 are
17185. -/
theorem test_decode_data : decode (.buffer [0x68, 0x09, 0x68, 0x24, 0x42, 0x86] true) =
    .rxData 9 4660 17185 0 [] true := by decide

/-- R40: `c1` = 0xFD is the tag 01 under 111111, `c2` = 0xFF, `c3` = 0xFF holds recv[6:0] = 127 and the tag bit 1. -/
theorem test_decode_ack : decode (.buffer [0x68, 0x04, 0xFD, 0xFF, 0xFF, 0xFF] true) =
    .rxAck 4 32767 0b111111 0xFF 1 [] := by decide

/-- R41: `c1` = 0x23 is 0010 0011, so bit 5 is set: stop-confirm. -/
theorem test_decode_signal : decode (.buffer [0x68, 0x04, 0x23, 0x00, 0x00, 0x00] true) =
    .rxSig 4 flagStopCon 0 0 0 [] := by decide

/-- R47: the selector 0b00, `DATA send=5 recv=6 paylen=7`. -/
theorem test_decode_encData : decode (.request { var := 0b00, send := 5, recv := 6, flags := 0x3F, paylen := 7 }) =
    .encData 5 6 0x3F 7 := by decide

/-- R47: the selector 0b01. -/
theorem test_decode_encAck : decode (.request { var := 0b01, send := 0, recv := 4660, flags := 0, paylen := 0 }) =
    .encAck 0 4660 0 0 := by decide

/-- R47, R51: the selector 0b11 with flag 0x01 is what START_ACT expands to. -/
theorem test_decode_encSig : decode (.request { var := 0b11, send := 0, recv := 0, flags := 0x01, paylen := 0 }) =
    expand .startAct := by decide

/-- R47: the selector 0b10. -/
theorem test_decode_encRsvd : decode (.request { var := 0b10, send := 1, recv := 1, flags := 1, paylen := 252 }) =
    .encRsvd 1 1 1 252 := by decide

/-- The rows of opcode_table.json, from their match values. -/
theorem test_table_words :
    decodeTableWord 24 0x000068 = some (.rxData 0 0 0 0 [] true) ∧
    decodeTableWord 24 0x010068 = some (.rxAck 0 0 0 0 0 []) ∧
    decodeTableWord 24 0x030068 = some (.rxSig 0 0 0 0 0 []) ∧
    decodeTableWord 48 0x000000130468 = some (.rxSig 4 flagStopAct 0 0 0 []) ∧
    decodeTableWord 8 0 = some (.encData 0 0 0 0) ∧ decodeTableWord 8 1 = some (.encAck 0 0 0 0) ∧
    decodeTableWord 8 3 = some (.encSig 0 0 0 0) ∧ decodeTableWord 8 2 = some (.encRsvd 0 0 0 0) ∧
    decodeTableWord 0 0 = some (.rxShort []) ∧ decodeTableWord 48 0 = some (.rxBadmark 0 [0, 0, 0, 0, 0]) := by
  decide

/-! ## The decode family (95 section 2.3) -/

/-- `67`: short wins over wrong marker. -/
theorem test_rxShort : recordAfter (step (withAction (.stimulus (.buffer [0x67] true)))) =
    some { err := 1, var := 2, len := 0, send := 0, recv := 0, flags := 0, nrecv := 0 } := by decide

/-- `69 04 00 00 00 00`: would be Data otherwise; no ack frame. -/
theorem test_rxBadmark : recordAfter (step (withAction (.stimulus (.buffer [0x69, 4, 0, 0, 0, 0] true)))) =
    some { err := 2, var := 2, len := 0, send := 0, recv := 0, flags := 0, nrecv := 0 } ∧
    ackAfter (step (withAction (.stimulus (.buffer [0x69, 4, 0, 0, 0, 0] true)))) = none := by decide

/-- `68 04 FE 00 00 01`: send 127, recv 128, and the ack frame `68 04 01 00 00 01`, with the carry into the high byte. -/
theorem test_rxData : recordAfter (step (withAction (.stimulus (.buffer [0x68, 4, 0xFE, 0, 0, 1] true)))) =
    some { err := 0, var := 0, len := 4, send := 127, recv := 128, flags := 0, nrecv := 128 } ∧
    ackAfter (step (withAction (.stimulus (.buffer [0x68, 4, 0xFE, 0, 0, 1] true)))) = some 0x010000010468 := by
  decide

/-- `68 04 02 00 00 00` with `ack_en` = 0 (95 P3 step 5): `c1[1:0]` = 0b10 is Data; `NRECV` is given, no ack frame. -/
theorem test_rxData_ack_off : recordAfter (step (withAction (.stimulus (.buffer [0x68, 4, 2, 0, 0, 0] false)))) =
    some { err := 0, var := 0, len := 4, send := 1, recv := 0, flags := 0, nrecv := 2 } ∧
    ackAfter (step (withAction (.stimulus (.buffer [0x68, 4, 2, 0, 0, 0] false)))) = none := by decide

/-- `68 09 01 00 02 00 AA`: odd `length` and a trailing byte, no error; an ack frame is not acknowledged. -/
theorem test_rxAck : recordAfter (step (withAction (.stimulus (.buffer [0x68, 9, 1, 0, 2, 0, 0xAA] true)))) =
    some { err := 0, var := 1, len := 9, send := 0, recv := 1, flags := 0, nrecv := 0 } ∧
    ackAfter (step (withAction (.stimulus (.buffer [0x68, 9, 1, 0, 2, 0, 0xAA] true)))) = none := by decide

/-- `68 00 AB 00 00 00`: flags 0x2A, `length` 0, no error. -/
theorem test_rxSig : recordAfter (step (withAction (.stimulus (.buffer [0x68, 0, 0xAB, 0, 0, 0] true)))) =
    some { err := 0, var := 3, len := 0, send := 0, recv := 0, flags := 0x2A, nrecv := 0 } := by decide

/-- 95 P1 step 9: with both outputs waiting RX is held and nothing changes. -/
theorem test_rx_held : fcuAfter (exec (.rxSig 4 0x10 0 0 0 []) bothWaiting) = some bothWaiting.fcu := by decide

/-! ## The encode family (95 section 2.4) -/

/-- 63, 64: bit 6 of each number is the top bit of its low byte. -/
theorem test_encData : gotAfter (exec (.encData 63 64 0 0) State.reset) = some [.answer 0 0x0080007E0468] := by decide

/-- 252 is LengthOverflow. -/
theorem test_encData_overflow :
    gotAfter (exec (.encData 32767 32767 0x3F 252) State.reset) = some [.answer 2 0] := by decide

/-- send, flags and paylen ignored. -/
theorem test_encAck : gotAfter (exec (.encAck 32767 1 0x3F 255) State.reset) = some [.answer 0 0x000200010468] := by
  decide

theorem test_encSig : gotAfter (exec (.encSig 0 0 0x2A 0) State.reset) = some [.answer 0 0x000000AB0468] := by decide

/-- The selector comes first: not LengthOverflow. -/
theorem test_encRsvd : gotAfter (exec (.encRsvd 1 1 1 252) State.reset) = some [.answer 1 0] := by decide

/-- R51, the bytes of the table. -/
theorem test_startAct : gotAfter (exec .startAct State.reset) = some [.answer 0 0x000000070468] := by decide
theorem test_startCon : gotAfter (exec .startCon State.reset) = some [.answer 0 0x0000000B0468] := by decide
theorem test_stopAct : gotAfter (exec .stopAct State.reset) = some [.answer 0 0x000000130468] := by decide
theorem test_stopCon : gotAfter (exec .stopCon State.reset) = some [.answer 0 0x000000230468] := by decide
theorem test_testAct : gotAfter (exec .testAct State.reset) = some [.answer 0 0x000000430468] := by decide
theorem test_testCon : gotAfter (exec .testCon State.reset) = some [.answer 0 0x000000830468] := by decide

/-! ## The generator (95 section 2.5) -/

theorem test_ackgen : ackAfter (exec (.ackgen 16385) State.reset) = some 0x800200010468 := by decide

/-- S = 32767: the ack frame with receive number 0. -/
theorem test_ackgen_wraps :
    ackAfter (step (withAction (.stimulus (.buffer [0x68, 4, 0xFE, 0xFF, 0x0A, 0] true)))) =
      some 0x000000010468 := by decide

/-! ## The byte steps and the clock edge (95 sections 2.6, 2.7, 2.8) -/

/-- Transfer 6 of the trace: 0x00 at `RXN` = 5 goes to `RXH[5]`, `RXN` becomes 6. -/
theorem test_rxByte_captures : (fcuAfter (step (pushAction (.rxByte 0x00 false false) fiveCaptured))).map
    (fun f => (f.rxn, f.rxh.c4)) = some (6, 0x00) := by decide

/-- Transfer 8: the last byte is at an offset above 5; it commits the header with `ack_en` = 1. -/
theorem test_rxByte_commits : (fcuAfter (step (pushAction (.rxByte 0x01 true true) sixCaptured))).map
    (fun f => (f.rxn, f.rxr, f.akr)) =
      some (0, { err := 0, var := 0, len := 14, send := 1, recv := 1, flags := 0, nrecv := 2 }, 0x000400010468) := by
  decide

/-- `68 04 01 00 02*` (five bytes): `Err(SHORT)`, and the stale sixth byte is not read. -/
theorem test_rxByte_short : recordAfter (step (pushAction (.rxByte 0x02 true true)
    { fiveCaptured with fcu := { fiveCaptured.fcu with rxn := 4 } })) =
      some { err := 1, var := 2, len := 0, send := 0, recv := 0, flags := 0, nrecv := 0 } := by decide

/-- R67: the take clears `RXR_V` and does not touch `AKR_V`. -/
theorem test_takeRec : (fcuAfter (step (pushAction .takeRec bothWaiting))).map (fun f => (f.rxrV, f.akrV)) =
    some (false, true) := by decide

/-- R78. -/
theorem test_takeAck : gotAfter (step (pushAction .takeAck bothWaiting)) = some [.ackFrame 0x000400010468] := by decide

/-- 95 section 2.8, second row: `RXR_V` and `AKR_V` become 0. -/
theorem test_reset : (fcuAfter (step (pushAction .reset bothWaiting))).map (fun f => (f.rxn, f.rxrV, f.akrV)) =
    some (0, false, false) := by rfl

/-- Both takes at one edge (R94). -/
theorem test_edge_takes_both :
    (fcuAfter (step (pushAction (.edge { quiet with rxrReady := true, ackReady := true }) bothWaiting))).map
      (fun f => (f.rxrV, f.akrV)) = some (false, false) := by decide

/-- A byte offered while something waits is not transferred (95 section 2.7). -/
theorem test_edge_not_ready :
    fcuAfter (step (pushAction (.edge { quiet with rxValid := true, rxData := 0x68 }) bothWaiting)) =
      some bothWaiting.fcu := by decide

/-- V18: with `rst` = 1 the take does not happen. -/
theorem test_edge_reset_wins :
    acksTakenAfter (step (pushAction (.edge { quiet with rst := true, ackReady := true }) bothWaiting)) = some [] := by
  rfl

/-! ## The host's two definitions -/

/-- The very next step after `withFetchWord` runs the word: RX.DATA of zeros with `ack_en` = 1 makes its ack frame. -/
theorem test_withFetchWord : ackAfter (step (State.reset.withFetchWord 24 0x68)) = some 0x000200010468 := by decide

/-! ## Witnesses: states and operands that meet the hypotheses of the statements, clause by clause at the boundaries -/

/-- Only the record waits. -/
def recordWaiting : State := { bothWaiting with fcu := { bothWaiting.fcu with akrV := false } }

/-- Only the ack frame waits. -/
def ackWaiting : State := { bothWaiting with fcu := { bothWaiting.fcu with rxrV := false } }

/-- The bytes `68 04 FE 00 00 01`: a data frame (95 section 2.3). -/
def dataBytes : List Byte := [0x68, 0x04, 0xFE, 0x00, 0x00, 0x01]

/-- The bytes `68 04 01 00 02 00`: an ack frame. -/
def ackBytes : List Byte := [0x68, 0x04, 0x01, 0x00, 0x02, 0x00]

/-- ClassifyReadsTheTagBitsInTurn, IgnoredBitsChangeNothing, and the frame clauses of the three RX frame statements: a
`c1` for each tag pattern, every other bit set. -/
theorem witness_tag_bits :
    (0xFE#8).getLsbD 0 = false ∧ ((0xFD#8).getLsbD 0 = true ∧ (0xFD#8).getLsbD 1 = false) ∧
    ((0xFF#8).getLsbD 0 = true ∧ (0xFF#8).getLsbD 1 = true) := by decide

/-- AckValueIncrementsModulo32768: the largest number that does not wrap. -/
theorem witness_no_wrap : (32766#15 : Seq15) ≠ 32767#15 := by decide

/-- The RX statements' enabling condition, met at reset and in the middle of a buffer. -/
theorem witness_rx_ready : rxReady State.reset.fcu = true ∧ rxReady fiveCaptured.fcu = true := by decide

/-- RxShortDeliversShortRecord, DecodeBufferReadsTheFirstSixBytes, MatchAndMaskRowsSelectTheOperation: buffers of no
byte, of five and of six. -/
theorem witness_lengths : ([] : List Byte).length < 6 ∧ (dataBytes.take 5).length < 6 ∧ 6 ≤ dataBytes.length := by decide

/-- RxBadmarkDeliversMarkerRecord: one bit from the marker, and just enough bytes. -/
theorem witness_badmark : (0x69#8) ≠ 0x68#8 ∧ 5 ≤ ([0x04, 0xFE, 0x00, 0x00, 0x01] : List Byte).length := by decide

/-- MatchAndMaskRowsSelectTheOperation: a six-byte buffer for each row. -/
theorem witness_rows :
    bufferWord [0x69, 4, 0, 0, 0, 0] &&& 0x0000000000FF#48 ≠ 0x68#48 ∧
    bufferWord dataBytes &&& 0x0000000100FF#48 = 0x000000000068#48 ∧
    bufferWord ackBytes &&& 0x0000000300FF#48 = 0x000000010068#48 ∧
    bufferWord [0x68, 4, 0xAB, 0, 0, 0] &&& 0x0000000300FF#48 = 0x000000030068#48 := by decide

/-- RxOperationsAreHeldWhileAnythingWaits and the held clauses of the two RX steps: the record alone, the ack frame
alone, both. -/
theorem witness_held :
    recordWaiting.fcu.rxrV = true ∧ recordWaiting.fcu.akrV = false ∧
    ackWaiting.fcu.rxrV = false ∧ ackWaiting.fcu.akrV = true ∧
    bothWaiting.fcu.rxrV = true ∧ bothWaiting.fcu.akrV = true := by decide

/-- EncDataAnswersHeaderOrLengthOverflow, EncStepAnswersTheRequest, DecodeAfterEncodeGivesTheRequestBack: the payload
lengths where the clauses meet. -/
theorem witness_paylen : (251#8).toNat ≤ 251 ∧ 251 < (252#8).toNat := by decide

/-- A request the host is about to make. -/
def aRequest (var : Code2) (paylen : Byte) : Request :=
  { var := var, send := 1, recv := 1, flags := 1, paylen := paylen }

/-- EncStepAnswersTheRequest: one state for each clause. -/
theorem witness_request :
    (withAction (.stimulus (.request (aRequest 0b00 252)))).script = .stimulus (.request (aRequest 0b00 252)) :: [] ∧
    (aRequest 0b00 252).var = 0b00#2 ∧ 251 < (aRequest 0b00 252).paylen.toNat ∧
    (aRequest 0b00 251).var = 0b00#2 ∧ (aRequest 0b00 251).paylen.toNat ≤ 251 ∧
    (aRequest 0b01 252).var = 0b01#2 ∧ (aRequest 0b11 252).var = 0b11#2 ∧ (aRequest 0b10 252).var = 0b10#2 := by
  decide

/-- EncodeAndBlockDoNotInterfere: one request in two different block states. -/
theorem witness_two_states :
    (pushAction (.stimulus (.request (aRequest 0b01 0))) bothWaiting).script =
      .stimulus (.request (aRequest 0b01 0)) :: [] ∧
    (pushAction (.stimulus (.request (aRequest 0b01 0))) sixCaptured).script =
      .stimulus (.request (aRequest 0b01 0)) :: [] ∧
    bothWaiting.fcu ≠ sixCaptured.fcu := by decide

/-- EncodeAfterDecodeHoldsForCanonicalFramesOnly: canonical frames of each variant (a data frame of the least `length`),
and frames that begin with the marker and are not canonical. -/
theorem witness_canonical :
    canonical { start := 0x68, length := 4, c1 := 0xFE, c2 := 0, c3 := 0, c4 := 1 } ∧
    canonical { start := 0x68, length := 4, c1 := 1, c2 := 0, c3 := 2, c4 := 0 } ∧
    canonical { start := 0x68, length := 4, c1 := 0xFF, c2 := 0, c3 := 0, c4 := 0 } ∧
    ¬canonical { start := 0x68, length := 3, c1 := 0xFE, c2 := 0, c3 := 0, c4 := 1 } ∧
    ¬canonical { start := 0x68, length := 4, c1 := 1, c2 := 0, c3 := 3, c4 := 0 } :=
  ⟨by decide, by decide, by decide, by decide, by decide⟩

/-- AckgenWritesTheAckFrame: no frame waits; also in a state whose record waits. -/
theorem witness_ackgen : State.reset.fcu.akrV = false ∧ recordWaiting.fcu.akrV = false := by decide

/-- The statements about RESET, from a state with both outputs waiting and from the middle of a buffer. -/
theorem witness_reset : (pushAction .reset bothWaiting).script = .reset :: [] ∧
    (pushAction .reset fiveCaptured).script = .reset :: [] := by decide

/-- StepRunsTheDecodedOperation: a stimulus to run, and nothing to do. -/
theorem witness_step : (withAction (.stimulus (.buffer dataBytes true))).script = .stimulus (.buffer dataBytes true) :: [] ∧
    State.reset.script = [] := by decide

/-- RxBufStepCommitsTheBuffer: enabled between buffers with a frame that triggers ACKGEN; the same frame with
`ack_en` = 0; a frame that never triggers it. -/
theorem witness_rxBuf :
    (withAction (.stimulus (.buffer dataBytes true))).script = .stimulus (.buffer dataBytes true) :: [] ∧
    State.reset.fcu.rxrV = false ∧ State.reset.fcu.akrV = false ∧ State.reset.fcu.rxn = 0 ∧
    ((decodeBuffer dataBytes).err = 0#2 ∧ (decodeBuffer dataBytes).var = 0b00#2 ∧ true = true) ∧
    ¬((decodeBuffer dataBytes).err = 0#2 ∧ (decodeBuffer dataBytes).var = 0b00#2 ∧ false = true) ∧
    ¬((decodeBuffer ackBytes).err = 0#2 ∧ (decodeBuffer ackBytes).var = 0b00#2 ∧ true = true) := by decide

/-- RxByteStepCapturesAndCommits: enabled at `RXN` = 5 and at `RXN` = 6. -/
theorem witness_rxByte :
    (pushAction (.rxByte 0xEE true true) fiveCaptured).script = .rxByte 0xEE true true :: [] ∧
    fiveCaptured.fcu.rxrV = false ∧ fiveCaptured.fcu.akrV = false ∧ fiveCaptured.fcu.rxn.val < 6 ∧
    (pushAction (.rxByte 0xEE false true) sixCaptured).script = .rxByte 0xEE false true :: [] ∧
    sixCaptured.fcu.rxrV = false ∧ sixCaptured.fcu.akrV = false ∧ sixCaptured.fcu.rxn.val = 6 := by decide

/-- AckEnableIsReadOnlyAtTheCommit: two states that differ only in the level of `ack_en` offered with the byte. -/
theorem witness_ackEnable :
    (pushAction (.rxByte 7 false true) fiveCaptured).script = .rxByte 7 false true :: [] ∧
    (pushAction (.rxByte 7 false false) fiveCaptured).script = .rxByte 7 false false :: [] ∧
    (pushAction (.rxByte 7 false true) fiveCaptured).fcu = (pushAction (.rxByte 7 false false) fiveCaptured).fcu ∧
    (pushAction (.rxByte 7 false true) fiveCaptured).got = (pushAction (.rxByte 7 false false) fiveCaptured).got ∧
    (pushAction (.rxByte 7 false true) fiveCaptured).fresh = (pushAction (.rxByte 7 false false) fiveCaptured).fresh := by
  decide

/-- RecordTakeHandsOverTheRecord, AckTakeHandsOverTheFrame, TakesCommute, TakesLiftEveryHold: the takes enabled and
not. -/
theorem witness_takes :
    (pushAction .takeRec recordWaiting).script = .takeRec :: [] ∧ recordWaiting.fcu.rxrV = true ∧
    (pushAction .takeRec ackWaiting).script = .takeRec :: [] ∧ ackWaiting.fcu.rxrV = false ∧
    (pushAction .takeAck ackWaiting).script = .takeAck :: [] ∧ ackWaiting.fcu.akrV = true ∧
    (pushAction .takeAck recordWaiting).script = .takeAck :: [] ∧ recordWaiting.fcu.akrV = false ∧
    (pushAction .takeRec (pushAction .takeAck bothWaiting)).script = .takeRec :: .takeAck :: [] := by decide

/-- AnErrorRecordLeavesNoTrace: nothing waits, in the middle of nothing, and a buffer that is no frame. -/
theorem witness_error : State.reset.fcu.rxrV = false ∧ State.reset.fcu.akrV = false ∧
    (decodeBuffer [0x68, 4, 1, 0, 2]).err ≠ 0#2 ∧ (decodeBuffer [0x69, 4, 1, 0, 2, 0]).err ≠ 0#2 := by decide

/-- OutputsFollowTheState, ResetWinsAtAClockEdge, ClockEdgeTransfersWhereValidAndReady: edges with `rst` 0 and 1, with
outputs valid, with a byte transferred and with a byte offered in vain. -/
theorem witness_edges :
    (pushAction (.edge quiet) bothWaiting).script = .edge quiet :: [] ∧ quiet.rst = false ∧
    (pushAction (.edge { quiet with rst := true }) bothWaiting).script = .edge { quiet with rst := true } :: [] ∧
    ({ quiet with rst := true } : Pins).rst = true ∧
    (({ quiet with rxValid := true } : Pins).rxValid = true ∧ rxReady fiveCaptured.fcu = true) ∧
    ¬(({ quiet with rxValid := true } : Pins).rxValid = true ∧ rxReady bothWaiting.fcu = true) := by decide

/-- ByteStepsAgreeWithTheBufferStep: a buffer of one byte and one of seven, from reset, `ack_en` changing before the
last byte. -/
theorem witness_byteActions :
    State.reset.fcu.rxn = 0 ∧ State.reset.fcu.rxrV = false ∧ State.reset.fcu.akrV = false ∧
    (withAction (.rxByte 0x68 true true)).script = byteActions [] 0x68 true ++ [] ∧
    ({ State.reset with script := byteActions (dataBytes.map fun b => (b, false)) 0xAA true } : State).script =
      byteActions (dataBytes.map fun b => (b, false)) 0xAA true ++ [] := by decide

/-- DecodeOfEncodeIsTheOperation: a well-formed operation with its stimulus, and one at the shortest marker error. -/
theorem witness_encode :
    (Instr.rxData 4 127 128 1 [0xAA] true).wellFormed = true ∧
    encode (.rxData 4 127 128 1 [0xAA] true) = some (.buffer [0x68, 0x04, 0xFE, 0x00, 0x01, 0x01, 0xAA] true) ∧
    (Instr.rxBadmark 0x67 [4, 1, 0, 0, 0]).wellFormed = true ∧
    encode (.rxBadmark 0x67 [4, 1, 0, 0, 0]) = some (.buffer [0x67, 4, 1, 0, 0, 0] false) := by decide

/-- EveryStepKeepsTheInvariant: the state with both outputs waiting meets it, the host about to take the record. -/
theorem witness_inv : Inv (pushAction .takeRec bothWaiting) ∧
    ∃ t, step (pushAction .takeRec bothWaiting) = .next t :=
  ⟨⟨by decide, by decide, by decide, by decide⟩, _, rfl⟩

/-- RecordsFollowTheBuffersInOrder, AckFramesFollowTheDataFramesInOrder: one step without a reset that commits a data
frame, so that neither ledger stays empty. -/
theorem witness_ledgers :
    (∀ a ∈ (withAction (.stimulus (.buffer dataBytes true))).script.take 1, resets a = false) ∧
    commits 1 (withAction (.stimulus (.buffer dataBytes true))) = [(dataBytes, true)] ∧
    ackDue (dataBytes, true) ≠ none ∧
    ∃ t, Host.Core.run Sys2Proof.core 1 (withAction (.stimulus (.buffer dataBytes true))) = .next t :=
  ⟨by decide, by decide, by decide, _, rfl⟩

end Sys2Proof.Tests
end

section
/-! PROOFS. The output ports at a clock edge (O40): what a step that is an edge does, and which outputs it shows. -/

namespace Sys2Proof.Proofs

open Machine Laws

/-! ## One step that is a clock edge -/

theorem step_edge_of_run {s : State} {p : Pins} {rest : List HostAction} (h : s.script = .edge p :: rest)
    (hrst : p.rst = false) : step s = .next (edgeNext p { s with script := rest }) :=
  (step_cons h).trans (clockEdge_of_run hrst)

theorem step_edge_of_reset {s : State} {p : Pins} {rest : List HostAction} (h : s.script = .edge p :: rest)
    (hrst : p.rst = true) : step s = .next (resetStep (observe p { s with script := rest })) :=
  (step_cons h).trans (clockEdge_of_reset hrst)

/-- An edge with `rst` = 0 shows the ports before anything it hands over. -/
theorem edgeNext_got (p : Pins) (s : State) :
    ∃ more, (edgeNext p s).got = s.got ++ .ports (outputs p s) :: more := by
  unfold edgeNext
  split
  · exact ⟨[], rfl⟩
  · obtain ⟨more, hmore⟩ := edgeTakes_got p (observe p s)
    exact ⟨more, by simp [hmore]⟩

/-- Every edge completes and shows the ports of the state it began in. -/
theorem step_edge_shows_outputs {s : State} {p : Pins} {rest : List HostAction} (h : s.script = .edge p :: rest) :
    ∃ (t : State) (more : List Event), step s = .next t ∧ t.got = s.got ++ .ports (outputs p s) :: more := by
  cases hrst : p.rst with
  | false =>
    obtain ⟨more, hmore⟩ := edgeNext_got p { s with script := rest }
    exact ⟨_, more, step_edge_of_run h hrst, hmore⟩
  | true => exact ⟨_, [], step_edge_of_reset h hrst, rfl⟩

/-! ## The output ports as functions of the state and the request (R22) -/

theorem outputs_ready_valid_of_run {p : Pins} (s : State) (hrst : p.rst = false) :
    (outputs p s).rxReady = rxReady s.fcu ∧ (outputs p s).rxrValid = s.fcu.rxrV ∧
      (outputs p s).ackValid = s.fcu.akrV := by
  simp [outputs, hrst, rxrValid, ackValid]

theorem outputs_rxr_of_valid {p : Pins} {s : State} (hrst : p.rst = false) (hv : s.fcu.rxrV = true) :
    (outputs p s).rxr = s.fcu.rxr := by
  simp [outputs, hrst, rxrValid, hv]

theorem outputs_ackFrame_of_valid {p : Pins} {s : State} (hrst : p.rst = false) (hv : s.fcu.akrV = true) :
    (outputs p s).ackFrame = s.fcu.akr := by
  simp [outputs, hrst, ackValid, hv]

theorem outputs_ready_valid_of_reset {p : Pins} (s : State) (hrst : p.rst = true) :
    (outputs p s).rxReady = false ∧ (outputs p s).rxrValid = false ∧ (outputs p s).ackValid = false := by
  simp [outputs, hrst]

@[simp] theorem outputs_encErr (p : Pins) (s : State) : (outputs p s).encErr = (encodeRequest p.enc).err := rfl

@[simp] theorem outputs_encFrame (p : Pins) (s : State) : (outputs p s).encFrame = encWord (encodeRequest p.enc) := rfl

/-- Settles O40: every edge shows `outputs` of the state it began in, and these meet R22 clause by clause. -/
theorem outputsFollowTheState : Obligations.OutputsFollowTheState := by
  intro s p rest h
  obtain ⟨t, more, hstep, hgot⟩ := step_edge_shows_outputs h
  refine ⟨t, outputs p s, more, hstep, hgot, fun hrst => ?_, outputs_ready_valid_of_reset s, outputs_encErr p s,
    outputs_encFrame p s⟩
  obtain ⟨hready, hrxr, hack⟩ := outputs_ready_valid_of_run s hrst
  exact ⟨hready, hrxr, hack, outputs_rxr_of_valid hrst, outputs_ackFrame_of_valid hrst⟩

end Sys2Proof.Proofs
end

section
/-! PROOFS. The packing of a 15-bit number into two bytes (O1, R42): each function is known by the number it gives, and
the two round-trip laws are arithmetic over these numbers. -/

namespace Sys2Proof.Proofs

open Machine

/-! ## The two functions as numbers -/

@[simp] theorem pack15_lo_toNat (v : Seq15) : (pack15 v).1.toNat = 2 * (v.toNat % 128) := by
  simp only [pack15, BitVec.toNat_shiftLeft, BitVec.toNat_setWidth, BitVec.extractLsb'_toNat, Nat.shiftLeft_eq,
    Nat.shiftRight_zero]
  omega

@[simp] theorem pack15_hi_toNat (v : Seq15) : (pack15 v).2.toNat = v.toNat / 128 := by
  simp only [pack15, BitVec.extractLsb'_toNat, Nat.shiftRight_eq_div_pow]
  omega

/-- The two parts of `unpack15` share no bit, so their union is their sum. -/
@[simp] theorem unpack15_toNat (lo hi : Byte) : (unpack15 lo hi).toNat = 128 * hi.toNat + lo.toNat / 2 := by
  have hlow : ((lo.extractLsb' 1 7).setWidth 15).toNat = lo.toNat / 2 := by
    simp only [BitVec.toNat_setWidth, BitVec.extractLsb'_toNat, Nat.shiftRight_eq_div_pow]
    omega
  have hhigh : (hi.setWidth 15 <<< 7).toNat = 2 ^ 7 * hi.toNat := by
    simp only [BitVec.toNat_shiftLeft, BitVec.toNat_setWidth, Nat.shiftLeft_eq]
    omega
  have hlt : lo.toNat / 2 < 2 ^ 7 := by omega
  rw [unpack15, BitVec.toNat_or, hlow, hhigh, Nat.or_comm, ← Nat.two_pow_add_eq_or_of_lt hlt]

/-- Clearing bit 0 of a byte rounds its number down to an even one. -/
theorem toNat_and_0xFE (lo : Byte) : (lo &&& 0xFE#8).toNat = 2 * (lo.toNat / 2) := by
  have hmask : lo &&& 0xFE#8 = lo >>> 1 <<< 1 := (BitVec.shiftLeft_ushiftRight (x := lo) (n := 1)).symm
  simp only [hmask, BitVec.toNat_shiftLeft, BitVec.toNat_ushiftRight, Nat.shiftLeft_eq, Nat.shiftRight_eq_div_pow]
  omega

/-! ## The round-trip laws -/

theorem unpack15_pack15 (v : Seq15) : unpack15 (pack15 v).1 (pack15 v).2 = v := by
  apply BitVec.eq_of_toNat_eq
  simp only [unpack15_toNat, pack15_hi_toNat, pack15_lo_toNat]
  omega

theorem pack15_unpack15 (lo hi : Byte) : pack15 (unpack15 lo hi) = (lo &&& 0xFE#8, hi) := by
  refine Prod.ext (BitVec.eq_of_toNat_eq ?_) (BitVec.eq_of_toNat_eq ?_)
  · simp only [pack15_lo_toNat, unpack15_toNat, toNat_and_0xFE]
    omega
  · simp only [pack15_hi_toNat, unpack15_toNat]
    omega

/-- Settles O1: the values from those of the two functions, the two laws, and the examples by evaluation. -/
theorem pack15AndUnpack15AreInverse : Obligations.Pack15AndUnpack15AreInverse := by
  refine ⟨fun v => ?_, fun lo hi => ?_, unpack15_pack15, pack15_unpack15, ?_⟩
  · rw [pack15_lo_toNat, pack15_hi_toNat]
    omega
  · rw [unpack15_toNat]
    omega
  · decide

end Sys2Proof.Proofs
end

section
/-! PROOFS. The classifier of frames (O3, R53): one rule for each of the three ways the tag bits of `c1` can be read. -/

namespace Sys2Proof.Proofs

open Machine

/-! ## The three branches of `classify` -/

theorem classify_of_bit0_clear {c1 : Byte} (h0 : c1.getLsbD 0 = false) : classify c1 = .data :=
  if_pos h0

theorem classify_of_bit0_set_bit1_clear {c1 : Byte} (h0 : c1.getLsbD 0 = true) (h1 : c1.getLsbD 1 = false) :
    classify c1 = .ack := by
  rw [classify, if_neg (ne_false_of_eq_true h0), if_pos h1]

theorem classify_of_bits_set {c1 : Byte} (h0 : c1.getLsbD 0 = true) (h1 : c1.getLsbD 1 = true) :
    classify c1 = .signal := by
  rw [classify, if_neg (ne_false_of_eq_true h0), if_neg (ne_false_of_eq_true h1)]

/-- Settles O3: its clauses are the three branches of `classify`. -/
theorem classifyReadsTheTagBitsInTurn : Obligations.ClassifyReadsTheTagBitsInTurn := fun _ =>
  ⟨classify_of_bit0_clear, classify_of_bit0_set_bit1_clear, classify_of_bits_set⟩

end Sys2Proof.Proofs
end

section
/-! PROOFS. The encode step (O19, O21; R71, R72): what the encoder answers for each selector, the frame word of a result,
and from them the clauses of the step ENC. -/

namespace Sys2Proof.Proofs

open Machine Laws

/-! ## The frame word of a result (R72) -/

theorem encWord_of_err_eq_zero {e : EncResult} (h : e.err = 0) : encWord e = frameWord e.bytes :=
  if_pos h

theorem encWord_of_err_ne_zero {e : EncResult} (h : e.err ≠ 0) : encWord e = 0 :=
  if_neg h

/-! ## ENC.DATA's length test (R68) -/

theorem encodeData_of_overflow {paylen : Byte} (send recv : Seq15) (h : 251 < paylen.toNat) :
    encodeData send recv paylen = encFail 2#2 :=
  if_pos h

theorem encodeData_err_of_fits {paylen : Byte} (send recv : Seq15) (h : paylen.toNat ≤ 251) :
    (encodeData send recv paylen).err = 0 := by
  have hfits : ¬ paylen > paylenMax := Nat.not_lt.mpr h
  rw [encodeData, if_neg hfits]

/-! ## `Encode`, selector by selector (R72) -/

theorem encodeRequest_data {r : Request} (h : r.var = 0b00#2) :
    encodeRequest r = encodeData r.send r.recv r.paylen := by
  simp [encodeRequest, h]

theorem encodeRequest_ack {r : Request} (h : r.var = 0b01#2) : encodeRequest r = encodeAck r.recv := by
  simp [encodeRequest, h]

theorem encodeRequest_signal {r : Request} (h : r.var = 0b11#2) : encodeRequest r = encodeSignal r.flags := by
  simp [encodeRequest, h]

theorem encodeRequest_rsvd {r : Request} (h : r.var = 0b10#2) : encodeRequest r = encFail 1#2 := by
  simp [encodeRequest, h]

theorem code2_cases (v : Code2) : v = 0b00#2 ∨ v = 0b01#2 ∨ v = 0b11#2 ∨ v = 0b10#2 := by
  revert v
  decide

/-- The codes the encoder gives, each selector its own (R72, R85). -/
theorem encodeRequest_err_cases (r : Request) :
    (encodeRequest r).err = 0#2 ∨ (encodeRequest r).err = 1#2 ∨ (encodeRequest r).err = 2#2 := by
  obtain hdata | hack | hsig | hrsvd := code2_cases r.var
  · rw [encodeRequest_data hdata]
    obtain hfits | hover := le_or_gt r.paylen.toNat 251
    · exact .inl (encodeData_err_of_fits _ _ hfits)
    · rw [encodeData_of_overflow _ _ hover]
      exact .inr (.inr rfl)
  · rw [encodeRequest_ack hack]
    exact .inl rfl
  · rw [encodeRequest_signal hsig]
    exact .inl rfl
  · rw [encodeRequest_rsvd hrsvd]
    exact .inr (.inl rfl)

theorem encodeRequest_err_ne_three (r : Request) : (encodeRequest r).err ≠ 3#2 := by
  obtain h | h | h := encodeRequest_err_cases r <;> rw [h] <;> decide

/-- A request whose encoding succeeds is answered with code 0 and the frame word of the encoder's bytes. -/
theorem encodeRequest_answers_frame {r : Request} {e : EncResult} (h : encodeRequest r = e) (he : e.err = 0) :
    (encodeRequest r).err = 0 ∧ encWord (encodeRequest r) = frameWord e.bytes := by
  rw [h]
  exact ⟨he, encWord_of_err_eq_zero he⟩

/-- Settles O21: the step gives the answer of `Encode`, and the clauses are its values, selector by selector. -/
theorem encStepAnswersTheRequest : Obligations.EncStepAnswersTheRequest := by
  intro s r rest hscript
  refine ⟨(encodeRequest r).err, encWord (encodeRequest r), step_request hscript, ?overflow, ?data, ?ack, ?signal,
    ?rsvd, encWord_of_err_ne_zero, encodeRequest_err_ne_three r, by decide⟩
  case overflow =>
    intro hvar hover
    rw [encodeRequest_data hvar, encodeData_of_overflow _ _ hover]
    rfl
  case data =>
    intro hvar hfits
    exact encodeRequest_answers_frame (encodeRequest_data hvar) (encodeData_err_of_fits _ _ hfits)
  case ack => exact fun hvar => encodeRequest_answers_frame (encodeRequest_ack hvar) rfl
  case signal => exact fun hvar => encodeRequest_answers_frame (encodeRequest_signal hvar) rfl
  case rsvd =>
    intro hvar
    rw [encodeRequest_rsvd hvar]
    rfl

/-- Settles O19: ENC.RSVD answers the failed result with code 1, whose frame word is 0, and the decoder picks it for the
one selector that is none of the other three. -/
theorem encRsvdAnswersUnsupportedVariant : Obligations.EncRsvdAnswersUnsupportedVariant :=
  fun _ _ _ _ s => ⟨answerRequest_eq (encFail 1#2) s, rfl⟩

end Sys2Proof.Proofs
end

section
/-! PROOFS. The frame word as six byte lanes (O2, R27): the word is known by its number, its bytes by theirs, and the
two are inverse; and masking a word masks it lane by lane. -/

namespace Sys2Proof.Proofs

open Machine

/-! ## The word and its bytes as numbers -/

/-- A word below 2^i joined with a lane at bit i is their sum: they share no bit. -/
theorem or_lane_toNat {w : Word48} {i n : Nat} (b : Byte) (hw : w.toNat = n) (hn : n < 2 ^ i) (hi : i ≤ 40) :
    (w ||| (b.setWidth 48 <<< i)).toNat = n + 2 ^ i * b.toNat := by
  have hfits : b.toNat * 2 ^ i < 2 ^ 48 := calc
    b.toNat * 2 ^ i < 2 ^ 8 * 2 ^ i := Nat.mul_lt_mul_of_pos_right b.isLt (Nat.two_pow_pos i)
    _ ≤ 2 ^ 8 * 2 ^ 40 := Nat.mul_le_mul_left _ (Nat.pow_le_pow_right (by omega) hi)
  have hlane : (b.setWidth 48 <<< i).toNat = 2 ^ i * b.toNat := by
    rw [BitVec.toNat_shiftLeft, BitVec.toNat_setWidth_of_le (by omega), Nat.shiftLeft_eq, Nat.mod_eq_of_lt hfits,
      Nat.mul_comm]
  rw [BitVec.toNat_or, hw, hlane, Nat.or_comm, ← Nat.two_pow_add_eq_or_of_lt hn, Nat.add_comm]

/-- R27 as a number: each byte in its own lane, one joined on after the other. -/
theorem frameWord_toNat (h : Header) : (frameWord h).toNat =
    h.start.toNat + 2 ^ 8 * h.length.toNat + 2 ^ 16 * h.c1.toNat + 2 ^ 24 * h.c2.toNat + 2 ^ 32 * h.c3.toNat +
      2 ^ 40 * h.c4.toNat := by
  have h0 : (h.start.setWidth 48).toNat = h.start.toNat := BitVec.toNat_setWidth_of_le (by omega)
  have h1 := or_lane_toNat (i := 8) h.length h0 (by omega) (by omega)
  have h2 := or_lane_toNat (i := 16) h.c1 h1 (by omega) (by omega)
  have h3 := or_lane_toNat (i := 24) h.c2 h2 (by omega) (by omega)
  have h4 := or_lane_toNat (i := 32) h.c3 h3 (by omega) (by omega)
  exact or_lane_toNat (i := 40) h.c4 h4 (by omega) (by omega)

/-- The byte at bit i of a word as a number. -/
theorem lane_toNat (w : Word48) (i : Nat) : (w.extractLsb' i 8).toNat = w.toNat / 2 ^ i % 256 := by
  rw [BitVec.extractLsb'_toNat, Nat.shiftRight_eq_div_pow]

/-! ## The two directions are inverse -/

theorem frameBytes_frameWord (h : Header) : frameBytes (frameWord h) = h := by
  obtain ⟨start, length, c1, c2, c3, c4⟩ := h
  simp only [frameBytes, Header.mk.injEq, ← BitVec.toNat_inj, lane_toNat, frameWord_toNat]
  omega

theorem frameWord_frameBytes (w : Word48) : frameWord (frameBytes w) = w := by
  apply BitVec.eq_of_toNat_eq
  simp only [frameWord_toNat, frameBytes, lane_toNat]
  omega

theorem frameBytes_injective : Function.Injective frameBytes :=
  Function.LeftInverse.injective frameWord_frameBytes

/-- Settles O2: the word as a number, the two inverses, and the rule's example by evaluation. -/
theorem frameWordLaysBytesInAscendingLanes : Obligations.FrameWordLaysBytesInAscendingLanes :=
  ⟨frameWord_toNat, frameBytes_frameWord, frameWord_frameBytes, by decide⟩

/-! ## Masking a word, lane by lane -/

/-- Masking six bytes one by one. -/
def maskHeader (h m : Header) : Header :=
  { start := h.start &&& m.start, length := h.length &&& m.length, c1 := h.c1 &&& m.c1
    c2 := h.c2 &&& m.c2, c3 := h.c3 &&& m.c3, c4 := h.c4 &&& m.c4 }

theorem frameBytes_and (w m : Word48) : frameBytes (w &&& m) = maskHeader (frameBytes w) (frameBytes m) := by
  simp [frameBytes, maskHeader, BitVec.extractLsb'_and]

/-- A masked frame word has a given value exactly when each masked byte has the byte of that value. -/
theorem frameWord_and_eq_iff (h : Header) (m v : Word48) :
    frameWord h &&& m = v ↔ maskHeader h (frameBytes m) = frameBytes v := by
  rw [← frameBytes_injective.eq_iff, frameBytes_and, frameBytes_frameWord]

end Sys2Proof.Proofs
end

section
/-! PROOFS. The bytes of a header that carry a tag beside a field: the low byte of a packed number, with one tag bit,
and `c1`, with two (R42, R44, R53). Each is known by its number, so that making and reading one are inverse by arithmetic.
With them the facts about single operands: O4, O5. -/

namespace Sys2Proof.Proofs

open Machine

/-! ## Tag bits as numbers -/

theorem getLsbD_zero_eq (b : Byte) : b.getLsbD 0 = decide (b.toNat % 2 = 1) := by
  rw [BitVec.getLsbD, Nat.testBit_zero]

theorem getLsbD_one_eq (b : Byte) : b.getLsbD 1 = decide (b.toNat / 2 % 2 = 1) := by
  rw [BitVec.getLsbD, Nat.testBit_succ, Nat.testBit_zero]

/-! ## The variant as a property of the tag bits (R53) -/

theorem classify_eq_data_iff (c1 : Byte) : classify c1 = .data ↔ c1.getLsbD 0 = false := by
  unfold classify
  split_ifs <;> simp_all

theorem classify_eq_ack_iff (c1 : Byte) : classify c1 = .ack ↔ c1.getLsbD 0 = true ∧ c1.getLsbD 1 = false := by
  unfold classify
  split_ifs <;> simp_all

theorem classify_eq_signal_iff (c1 : Byte) :
    classify c1 = .signal ↔ c1.getLsbD 0 = true ∧ c1.getLsbD 1 = true := by
  unfold classify
  split_ifs <;> simp_all

/-- Settles O4: the counts over the 256 values of a byte by evaluation, and the examples by the value of `unpack15`. -/
theorem classifyCountsOverAllBytes : Obligations.ClassifyCountsOverAllBytes := by
  refine ⟨rfl, rfl, rfl, rfl, rfl, fun c2 => ⟨by decide, by decide, ?_⟩⟩
  apply BitVec.eq_of_toNat_eq
  rw [BitVec.extractLsb'_toNat, unpack15_toNat, BitVec.toNat_ofNat, BitVec.toNat_ofNat, Nat.shiftRight_zero]
  omega

/-! ## The increment (R76) -/

theorem ackValue_toNat (v : Seq15) : (ackValue v).toNat = (v.toNat + 1) % 32768 :=
  BitVec.toNat_add v 1#15

/-- Settles O5: the 15-bit sum as a number, which wraps at 32767 only. -/
theorem ackValueIncrementsModulo32768 : Obligations.AckValueIncrementsModulo32768 := by
  refine ⟨ackValue_toNat, by decide, fun v hv => ?_⟩
  have hne : v.toNat ≠ 32767 := fun h => hv (BitVec.eq_of_toNat_eq h)
  rw [ackValue_toNat]
  omega

/-! ## The low byte of a packed number, with its tag bit -/

theorem pairLow_toNat (v : Seq15) (tag : BitVec 1) : (pairLow v tag).toNat = 2 * (v.toNat % 128) + tag.toNat := by
  have htag : tag.toNat < 2 ^ 1 := tag.isLt
  rw [pairLow, BitVec.toNat_or, pack15_lo_toNat, BitVec.toNat_setWidth_of_le (by omega),
    show 2 * (v.toNat % 128) = 2 ^ 1 * (v.toNat % 128) from rfl, ← Nat.two_pow_add_eq_or_of_lt htag]

@[simp] theorem unpack15_pairLow (v : Seq15) (tag : BitVec 1) : unpack15 (pairLow v tag) (pack15 v).2 = v := by
  apply BitVec.eq_of_toNat_eq
  rw [unpack15_toNat, pack15_hi_toNat, pairLow_toNat]
  omega

@[simp] theorem tag_pairLow (v : Seq15) (tag : BitVec 1) : (pairLow v tag).extractLsb' 0 1 = tag := by
  apply BitVec.eq_of_toNat_eq
  rw [BitVec.extractLsb'_toNat, pairLow_toNat, Nat.shiftRight_zero]
  omega

/-- The number and the tag bit read from a low byte make that byte again. -/
theorem pairLow_unpack15 (lo hi : Byte) : pairLow (unpack15 lo hi) (lo.extractLsb' 0 1) = lo := by
  apply BitVec.eq_of_toNat_eq
  rw [pairLow_toNat, unpack15_toNat, BitVec.extractLsb'_toNat, Nat.shiftRight_zero]
  omega

@[simp] theorem pack15_unpack15_hi (lo hi : Byte) : (pack15 (unpack15 lo hi)).2 = hi := by
  rw [pack15_unpack15]

/-- Packing clears the tag bit, so it gives the low byte back exactly when that bit was clear. -/
theorem pack15_unpack15_lo_eq_iff (lo hi : Byte) : (pack15 (unpack15 lo hi)).1 = lo ↔ lo.getLsbD 0 = false := by
  rw [← BitVec.toNat_inj, pack15_lo_toNat, unpack15_toNat, getLsbD_zero_eq, decide_eq_false_iff_not]
  omega

@[simp] theorem pack15_lo_getLsbD_zero (v : Seq15) : (pack15 v).1.getLsbD 0 = false := by
  rw [getLsbD_zero_eq, pack15_lo_toNat, decide_eq_false_iff_not]
  omega

/-- `c1` of an encoded data frame carries the tag of DATA. -/
@[simp] theorem classify_pack15_lo (v : Seq15) : classify (pack15 v).1 = .data :=
  classify_of_bit0_clear (pack15_lo_getLsbD_zero v)

/-! ## `c1` with its two tag bits -/

/-- `c1` of a frame that is not DATA: six bits over a tag. -/
theorem taggedC1_toNat (high : BitVec 6) {tag : Byte} (htag : tag.toNat < 4) :
    ((high.setWidth 8 <<< 2) ||| tag).toNat = 4 * high.toNat + tag.toNat := by
  have hhigh : (high.setWidth 8 <<< 2).toNat = 2 ^ 2 * high.toNat := by
    rw [BitVec.toNat_shiftLeft, BitVec.toNat_setWidth_of_le (by omega), Nat.shiftLeft_eq]
    omega
  rw [BitVec.toNat_or, hhigh, ← Nat.two_pow_add_eq_or_of_lt htag]

theorem high_taggedC1 (high : BitVec 6) {tag : Byte} (htag : tag.toNat < 4) :
    ((high.setWidth 8 <<< 2) ||| tag).extractLsb' 2 6 = high := by
  apply BitVec.eq_of_toNat_eq
  rw [BitVec.extractLsb'_toNat, taggedC1_toNat high htag, Nat.shiftRight_eq_div_pow]
  omega

/-- The six bits read from a `c1`, put over its own tag, make that `c1` again. -/
theorem taggedC1_of_tag {c1 tag : Byte} (htag : c1.toNat % 4 = tag.toNat) :
    ((c1.extractLsb' 2 6).setWidth 8 <<< 2) ||| tag = c1 := by
  apply BitVec.eq_of_toNat_eq
  rw [taggedC1_toNat _ (by omega), BitVec.extractLsb'_toNat, Nat.shiftRight_eq_div_pow]
  omega

@[simp] theorem classify_ackC1 (high : BitVec 6) : classify ((high.setWidth 8 <<< 2) ||| 0b01#8) = .ack := by
  rw [classify_eq_ack_iff, getLsbD_zero_eq, getLsbD_one_eq, taggedC1_toNat high (by decide)]
  simp only [decide_eq_true_iff, decide_eq_false_iff_not, BitVec.toNat_ofNat]
  omega

@[simp] theorem classify_signalC1 (high : BitVec 6) : classify ((high.setWidth 8 <<< 2) ||| 0b11#8) = .signal := by
  rw [classify_eq_signal_iff, getLsbD_zero_eq, getLsbD_one_eq, taggedC1_toNat high (by decide)]
  simp only [decide_eq_true_iff, BitVec.toNat_ofNat]
  omega

@[simp] theorem high_ackC1 (high : BitVec 6) : ((high.setWidth 8 <<< 2) ||| 0b01#8).extractLsb' 2 6 = high :=
  high_taggedC1 high (by decide)

@[simp] theorem high_signalC1 (high : BitVec 6) : ((high.setWidth 8 <<< 2) ||| 0b11#8).extractLsb' 2 6 = high :=
  high_taggedC1 high (by decide)

/-- A `c1` tagged ACK is its own six bits over that tag. -/
theorem ackC1_of_classify {c1 : Byte} (h : classify c1 = .ack) :
    ((c1.extractLsb' 2 6).setWidth 8 <<< 2) ||| 0b01#8 = c1 := by
  rw [classify_eq_ack_iff, getLsbD_zero_eq, getLsbD_one_eq] at h
  refine taggedC1_of_tag ?_
  simp only [decide_eq_true_eq, decide_eq_false_iff_not] at h
  simp only [BitVec.toNat_ofNat]
  omega

/-- A `c1` tagged SIGNAL is its own flags over that tag. -/
theorem signalC1_of_classify {c1 : Byte} (h : classify c1 = .signal) :
    ((c1.extractLsb' 2 6).setWidth 8 <<< 2) ||| 0b11#8 = c1 := by
  rw [classify_eq_signal_iff, getLsbD_zero_eq, getLsbD_one_eq] at h
  refine taggedC1_of_tag ?_
  simp only [decide_eq_true_eq] at h
  simp only [BitVec.toNat_ofNat]
  omega

end Sys2Proof.Proofs
end

section
/-! PROOFS. The decoder of buffers, read case by case (R49, R62): a buffer is too short, or six header bytes and a tail,
and then its first byte and the variant of `c1` pick the operation and the record. From it O13, O14, O15. -/

namespace Sys2Proof.Proofs

open Machine Laws Safety

/-! ## The shapes of a buffer -/

/-- A buffer has fewer than six bytes, or begins with the six bytes of a header. -/
theorem buffer_cases (b : List Byte) : b.length < 6 ∨ ∃ (h : Header) (tail : List Byte), b = headerBytes h ++ tail := by
  match b with
  | b0 :: b1 :: b2 :: b3 :: b4 :: b5 :: tail =>
    exact .inr ⟨{ start := b0, length := b1, c1 := b2, c2 := b3, c3 := b4, c4 := b5 }, tail, rfl⟩
  | [] | [_] | [_, _] | [_, _, _] | [_, _, _, _] | [_, _, _, _, _] => exact .inl (by simp)

@[simp] theorem bufferWord_header (h : Header) (tail : List Byte) : bufferWord (headerBytes h ++ tail) = frameWord h :=
  rfl

/-! ## The operation selected (R49) -/

theorem decode_short {b : List Byte} (e : Bool) (hb : b.length < 6) : decode (.buffer b e) = .rxShort b := by
  match b with
  | _ :: _ :: _ :: _ :: _ :: _ :: _ => exact absurd hb (by simp only [List.length_cons]; omega)
  | [] | [_] | [_, _] | [_, _, _] | [_, _, _, _] | [_, _, _, _, _] => rfl

theorem decode_badmark {h : Header} (tail : List Byte) (e : Bool) (hm : h.start ≠ marker) :
    decode (.buffer (headerBytes h ++ tail) e) =
      .rxBadmark h.start (h.length :: h.c1 :: h.c2 :: h.c3 :: h.c4 :: tail) :=
  if_neg hm

theorem decode_marker {h : Header} (tail : List Byte) (e : Bool) (hm : h.start = marker) :
    decode (.buffer (headerBytes h ++ tail) e) = decodeFrame h.length h.c1 h.c2 h.c3 h.c4 tail e :=
  if_pos hm

theorem decode_data {h : Header} (tail : List Byte) (e : Bool) (hm : h.start = marker)
    (hc : classify h.c1 = .data) : decode (.buffer (headerBytes h ++ tail) e) =
      .rxData h.length (sendOf h) (recvOf h) (h.c3.extractLsb' 0 1) tail e := by
  rw [decode_marker tail e hm, decodeFrame, hc]
  rfl

theorem decode_ack {h : Header} (tail : List Byte) (e : Bool) (hm : h.start = marker)
    (hc : classify h.c1 = .ack) : decode (.buffer (headerBytes h ++ tail) e) =
      .rxAck h.length (recvOf h) (h.c1.extractLsb' 2 6) h.c2 (h.c3.extractLsb' 0 1) tail := by
  rw [decode_marker tail e hm, decodeFrame, hc]
  rfl

theorem decode_signal {h : Header} (tail : List Byte) (e : Bool) (hm : h.start = marker)
    (hc : classify h.c1 = .signal) : decode (.buffer (headerBytes h ++ tail) e) =
      .rxSig h.length (flagsOf h) h.c2 h.c3 h.c4 tail := by
  rw [decode_marker tail e hm, decodeFrame, hc]
  rfl

/-! ## The record decoded (R62) -/

theorem decodeBuffer_short {b : List Byte} (hb : b.length < 6) : decodeBuffer b = errorRecord .short := by
  match b with
  | _ :: _ :: _ :: _ :: _ :: _ :: _ => exact absurd hb (by simp only [List.length_cons]; omega)
  | [] | [_] | [_, _] | [_, _, _] | [_, _, _, _] | [_, _, _, _, _] => rfl

/-- `DecodeHeader` of a buffer that begins with a header. -/
theorem decodeHeader_header (h : Header) (tail : List Byte) :
    decodeHeader (headerBytes h ++ tail) = if h.start = marker then .ok h else .error .marker := rfl

theorem decodeBuffer_badmark {h : Header} (tail : List Byte) (hm : h.start ≠ marker) :
    decodeBuffer (headerBytes h ++ tail) = errorRecord .marker := by
  simp [decodeBuffer, decodeHeader_header, hm]

theorem decodeBuffer_data {h : Header} (tail : List Byte) (hm : h.start = marker) (hc : classify h.c1 = .data) :
    decodeBuffer (headerBytes h ++ tail) = dataRecord h.length (sendOf h) (recvOf h) := by
  simp [decodeBuffer, decodeHeader_header, hm, hc]

theorem decodeBuffer_ack {h : Header} (tail : List Byte) (hm : h.start = marker) (hc : classify h.c1 = .ack) :
    decodeBuffer (headerBytes h ++ tail) = ackRecord h.length (recvOf h) := by
  simp [decodeBuffer, decodeHeader_header, hm, hc]

theorem decodeBuffer_signal {h : Header} (tail : List Byte) (hm : h.start = marker)
    (hc : classify h.c1 = .signal) :
    decodeBuffer (headerBytes h ++ tail) = signalRecord h.length (flagsOf h) := by
  simp [decodeBuffer, decodeHeader_header, hm, hc]

/-- The record is one of the five that the operations deliver (R57 to R61). -/
theorem decodeBuffer_cases (b : List Byte) :
    (∃ e, decodeBuffer b = errorRecord e) ∨ (∃ l v w, decodeBuffer b = dataRecord l v w) ∨
      (∃ l v, decodeBuffer b = ackRecord l v) ∨ (∃ l f, decodeBuffer b = signalRecord l f) := by
  obtain hb | ⟨h, tail, rfl⟩ := buffer_cases b
  · exact .inl ⟨_, decodeBuffer_short hb⟩
  · by_cases hm : h.start = marker
    · cases hc : classify h.c1 with
      | data => exact .inr (.inl ⟨_, _, _, decodeBuffer_data tail hm hc⟩)
      | ack => exact .inr (.inr (.inl ⟨_, _, decodeBuffer_ack tail hm hc⟩))
      | signal => exact .inr (.inr (.inr ⟨_, _, decodeBuffer_signal tail hm hc⟩))
    · exact .inl ⟨_, decodeBuffer_badmark tail hm⟩

/-- The bytes from offset 6 are not read (R30). -/
theorem decodeHeader_take_six (b : List Byte) : decodeHeader (b.take 6) = decodeHeader b := by
  obtain hb | ⟨h, tail, rfl⟩ := buffer_cases b
  · rw [List.take_of_length_le (by omega)]
  · rfl

theorem decodeBuffer_take_six (b : List Byte) : decodeBuffer (b.take 6) = decodeBuffer b := by
  rw [decodeBuffer, decodeHeader_take_six, decodeBuffer]

/-- Settles O13: one equation per case of the first byte and the variant. -/
theorem decodeBufferReadsTheFirstSixBytes : Obligations.DecodeBufferReadsTheFirstSixBytes := by
  refine ⟨fun B hB => decodeBuffer_short hB, fun b0 b1 b2 b3 b4 b5 tail => ?_,
    fun B _ => (decodeBuffer_take_six B).symm⟩
  let h : Header := { start := b0, length := b1, c1 := b2, c2 := b3, c3 := b4, c4 := b5 }
  by_cases hm : b0 = 0x68#8
  · rw [if_neg (not_not_intro hm)]
    cases hc : classify b2 with
    | data => exact decodeBuffer_data (h := h) tail hm hc
    | ack => exact decodeBuffer_ack (h := h) tail hm hc
    | signal => exact decodeBuffer_signal (h := h) tail hm hc
  · rw [if_pos hm]
    exact decodeBuffer_badmark (h := h) tail hm

/-! ## The kind of a record -/

theorem errorShape_errorRecord (e : FormatError) : errorShape (errorRecord e) := by
  cases e <;> decide

theorem dataShape_dataRecord (length : Byte) (send recv : Seq15) : dataShape (dataRecord length send recv) :=
  ⟨rfl, rfl, rfl, rfl⟩

theorem ackShape_ackRecord (length : Byte) (recv : Seq15) : ackShape (ackRecord length recv) :=
  ⟨rfl, rfl, rfl, rfl, rfl⟩

theorem signalShape_signalRecord (length : Byte) (flags : Flags6) : signalShape (signalRecord length flags) :=
  ⟨rfl, rfl, rfl, rfl, rfl⟩

theorem goodRecord_decodeBuffer (b : List Byte) : goodRecord (decodeBuffer b) := by
  obtain ⟨e, he⟩ | ⟨l, v, w, hd⟩ | ⟨l, v, ha⟩ | ⟨l, f, hs⟩ := decodeBuffer_cases b
  · rw [he]
    exact .inl (errorShape_errorRecord e)
  · rw [hd]
    exact .inr (.inl (dataShape_dataRecord l v w))
  · rw [ha]
    exact .inr (.inr (.inl (ackShape_ackRecord l v)))
  · rw [hs]
    exact .inr (.inr (.inr (signalShape_signalRecord l f)))

/-- The codes of a good record: never 3, and an error exactly when there is no frame. -/
theorem goodRecord_codes {r : Record} (h : goodRecord r) : r.err ≠ 3#2 ∧ (r.err ≠ 0#2 ↔ r.var = 0b10#2) := by
  obtain ⟨herr | herr, hvar, -⟩ | ⟨herr, hvar, -⟩ | ⟨herr, hvar, -⟩ | ⟨herr, hvar, -⟩ := h <;> rw [herr, hvar]
  all_goals decide

/-- A good record with the codes of a data frame is a data record. -/
theorem dataShape_of_codes {r : Record} (h : goodRecord r) (hvar : r.var = 0b00#2) : dataShape r := by
  obtain ⟨-, hvar', -⟩ | hdata | ⟨-, hvar', -⟩ | ⟨-, hvar', -⟩ := h
  case inr.inl => exact hdata
  all_goals exact absurd (hvar.symm.trans hvar') (by decide)

/-- Settles O14: the record is of one of the kinds, and each kind has its codes. -/
theorem everyDecodedRecordIsOneOfTheFiveKinds : Obligations.EveryDecodedRecordIsOneOfTheFiveKinds := fun B =>
  ⟨goodRecord_decodeBuffer B, goodRecord_codes (goodRecord_decodeBuffer B)⟩

/-! ## Which buffers select which operation (R49) -/

/-- What a buffer of at least six bytes selects, operation by operation. -/
theorem decode_selects_iff (h : Header) (tail : List Byte) (e : Bool) :
    ((∃ x y, decode (.buffer (headerBytes h ++ tail) e) = .rxBadmark x y) ↔ h.start ≠ marker) ∧
    ((∃ l v w t a, decode (.buffer (headerBytes h ++ tail) e) = .rxData l v w t a e) ↔
      h.start = marker ∧ classify h.c1 = .data) ∧
    ((∃ l v c d t a, decode (.buffer (headerBytes h ++ tail) e) = .rxAck l v c d t a) ↔
      h.start = marker ∧ classify h.c1 = .ack) ∧
    ((∃ l f c2 c3 c4 a, decode (.buffer (headerBytes h ++ tail) e) = .rxSig l f c2 c3 c4 a) ↔
      h.start = marker ∧ classify h.c1 = .signal) := by
  by_cases hm : h.start = marker
  · cases hc : classify h.c1 with
    | data => simp [decode_data tail e hm hc, hm]
    | ack => simp [decode_ack tail e hm hc, hm]
    | signal => simp [decode_signal tail e hm hc, hm]
  · simp [decode_badmark tail e hm, hm]

theorem decode_isShort_iff (b : List Byte) (e : Bool) : decode (.buffer b e) = .rxShort b ↔ b.length < 6 := by
  refine ⟨fun hdec => ?_, decode_short e⟩
  obtain hb | ⟨h, tail, rfl⟩ := buffer_cases b
  · exact hb
  · by_cases hm : h.start = marker
    · cases hc : classify h.c1 with
      | data => cases (decode_data tail e hm hc).symm.trans hdec
      | ack => cases (decode_ack tail e hm hc).symm.trans hdec
      | signal => cases (decode_signal tail e hm hc).symm.trans hdec
    · cases (decode_badmark tail e hm).symm.trans hdec

/-! ## The mask and match rows (R49) -/

/-- A row with mask and match on the first byte and on some bits of `c1` tests these two bytes. -/
theorem row_iff (h : Header) (m v : Byte) :
    frameWord h &&& frameWord { start := 0xFF, length := 0, c1 := m, c2 := 0, c3 := 0, c4 := 0 } =
        frameWord { start := 0x68, length := 0, c1 := v, c2 := 0, c3 := 0, c4 := 0 } ↔
      h.start = marker ∧ h.c1 &&& m = v := by
  have hall : h.start &&& 255#8 = h.start := BitVec.and_allOnes
  rw [frameWord_and_eq_iff]
  simp [frameBytes_frameWord, maskHeader, hall, marker]

theorem and_one_eq_zero_iff (c1 : Byte) : c1 &&& 1#8 = 0#8 ↔ classify c1 = .data := by
  rw [classify_eq_data_iff, getLsbD_zero_eq, ← BitVec.toNat_inj, BitVec.toNat_and,
    show (1#8).toNat = 2 ^ 1 - 1 from rfl, Nat.and_two_pow_sub_one_eq_mod, decide_eq_false_iff_not]
  simp only [BitVec.toNat_ofNat]
  omega

theorem and_three_toNat (c1 : Byte) : (c1 &&& 3#8).toNat = c1.toNat % 4 := by
  rw [BitVec.toNat_and, show (3#8).toNat = 2 ^ 2 - 1 from rfl, Nat.and_two_pow_sub_one_eq_mod]

theorem and_three_eq_one_iff (c1 : Byte) : c1 &&& 3#8 = 1#8 ↔ classify c1 = .ack := by
  rw [classify_eq_ack_iff, getLsbD_zero_eq, getLsbD_one_eq, ← BitVec.toNat_inj, and_three_toNat,
    decide_eq_true_iff, decide_eq_false_iff_not]
  simp only [BitVec.toNat_ofNat]
  omega

theorem and_three_eq_three_iff (c1 : Byte) : c1 &&& 3#8 = 3#8 ↔ classify c1 = .signal := by
  rw [classify_eq_signal_iff, getLsbD_zero_eq, getLsbD_one_eq, ← BitVec.toNat_inj, and_three_toNat,
    decide_eq_true_iff, decide_eq_true_iff]
  simp only [BitVec.toNat_ofNat]
  omega

/-- Settles O15: each row's test and each operation's selection say the same of the first byte and of `c1`. -/
theorem matchAndMaskRowsSelectTheOperation : Obligations.MatchAndMaskRowsSelectTheOperation := by
  intro b e
  refine ⟨(decode_isShort_iff b e).symm, fun hlen => ?_⟩
  obtain hb | ⟨h, tail, rfl⟩ := buffer_cases b
  · omega
  obtain ⟨hbadmark, hdata, hack, hsignal⟩ := decode_selects_iff h tail e
  rw [hbadmark, hdata, hack, hsignal, bufferWord_header]
  refine ⟨?badmark, ?data, ?ack, ?signal⟩
  case badmark => exact not_congr ((row_iff h 0 0).trans (by simp))
  case data => exact (row_iff h 1 0).trans (and_congr_right' (and_one_eq_zero_iff h.c1))
  case ack => exact (row_iff h 3 1).trans (and_congr_right' (and_three_eq_one_iff h.c1))
  case signal => exact (row_iff h 3 3).trans (and_congr_right' (and_three_eq_three_iff h.c1))

end Sys2Proof.Proofs
end

section
/-! PROOFS. The decode operations and ACKGEN (O6 to O12, O25, O26; R57 to R61, R77): each decode operation is the commit
of its own update, `exec_rx…`, and a commit either updates the block or is held. -/

namespace Sys2Proof.Proofs

open Machine Laws Safety

/-! ## Each decode operation as a commit -/

theorem exec_rxShort (b : List Byte) (s : State) :
    exec (.rxShort b) s = rxCommit (commitRecord (errorRecord .short)) s := rfl

theorem exec_rxBadmark (start : Byte) (rest : List Byte) (s : State) :
    exec (.rxBadmark start rest) s = rxCommit (commitRecord (errorRecord .marker)) s := rfl

theorem exec_rxData (length : Byte) (send recv : Seq15) (tag : BitVec 1) (adu : List Byte) (ackEn : Bool) (s : State) :
    exec (.rxData length send recv tag adu ackEn) s = rxCommit (commitData length send recv ackEn) s := rfl

theorem exec_rxAck (length : Byte) (recv : Seq15) (high : BitVec 6) (c2 : Byte) (tag : BitVec 1) (rest : List Byte)
    (s : State) : exec (.rxAck length recv high c2 tag rest) s = rxCommit (commitRecord (ackRecord length recv)) s :=
  rfl

theorem exec_rxSig (length : Byte) (flags : Flags6) (c2 c3 c4 : Byte) (rest : List Byte) (s : State) :
    exec (.rxSig length flags c2 c3 c4 rest) s = rxCommit (commitRecord (signalRecord length flags)) s := rfl

theorem commitData_of_ack (length : Byte) (send recv : Seq15) (f : Fcu) :
    commitData length send recv true f = ackGen (ackValue send) (commitRecord (dataRecord length send recv) f) := rfl

theorem commitData_of_no_ack (length : Byte) (send recv : Seq15) (f : Fcu) :
    commitData length send recv false f = commitRecord (dataRecord length send recv) f := rfl

/-- The commit of a data frame, its two valid bits and its ack frame written out. -/
theorem commitData_eq (length : Byte) (send recv : Seq15) (ackEn : Bool) {f : Fcu} (hf : f.akrV = false) :
    commitData length send recv ackEn f =
      { f with
        rxr := dataRecord length send recv, rxrV := true, rxn := 0
        akr := if ackEn then frameWord (encodeAck (ackValue send)).bytes else f.akr, akrV := ackEn } := by
  cases ackEn with
  | false => simp [commitData_of_no_ack, commitRecord, hf]
  | true => rfl

/-! ## The operations enabled -/

/-- Settles O6: RX.SHORT commits the SHORT record; the length test selects it. -/
theorem rxShortDeliversShortRecord : Obligations.RxShortDeliversShortRecord :=
  ⟨fun b s hr => (exec_rxShort b s).trans (rxCommit_of_ready hr), fun _ e hb => decode_short e hb⟩

/-- Six bytes of which the first is not the marker select RX.BADMARK. -/
theorem decode_badmark_of_length {start : Byte} {rest : List Byte} (e : Bool) (hm : start ≠ marker)
    (hlen : 5 ≤ rest.length) : decode (.buffer (start :: rest) e) = .rxBadmark start rest := by
  obtain hb | ⟨h, tail, hb⟩ := buffer_cases (start :: rest)
  · exact absurd hlen (by simp only [List.length_cons] at hb; omega)
  · obtain ⟨rfl, rfl⟩ := List.cons.inj hb
    exact decode_badmark tail e hm

/-- Settles O7: RX.BADMARK commits the MARKER record; six bytes without the marker select it. -/
theorem rxBadmarkDeliversMarkerRecord : Obligations.RxBadmarkDeliversMarkerRecord :=
  ⟨fun start rest s hr => (exec_rxBadmark start rest s).trans (rxCommit_of_ready hr),
    fun _ _ e hm hlen => decode_badmark_of_length e hm hlen⟩

/-- Settles O8: RX.DATA commits `commitData`; the marker and `c1[0]` = 0 select it. -/
theorem rxDataDeliversRecordAndAckFrame : Obligations.RxDataDeliversRecordAndAckFrame := by
  refine ⟨fun length send recv tag adu ackEn s hr => ?_, fun length c1 c2 c3 c4 tail e h0 => ?_⟩
  · obtain ⟨-, hack⟩ := (rxReady_iff s.fcu).mp hr
    rw [exec_rxData, rxCommit_of_ready hr, commitData_eq _ _ _ _ hack]
    rfl
  · exact decode_data (h := ⟨marker, length, c1, c2, c3, c4⟩) tail e rfl (classify_of_bit0_clear h0)

/-- Settles O9: RX.ACK commits the ack record; the marker and the tag 01 select it. -/
theorem rxAckDeliversReceiveNumber : Obligations.RxAckDeliversReceiveNumber :=
  ⟨fun _ _ _ _ _ _ _ hr => (exec_rxAck ..).trans (rxCommit_of_ready hr),
    fun length c1 c2 c3 c4 tail e h0 h1 =>
      decode_ack (h := ⟨marker, length, c1, c2, c3, c4⟩) tail e rfl (classify_of_bit0_set_bit1_clear h0 h1)⟩

/-- Settles O10: RX.SIG commits the signal record; the marker and the tag 11 select it. -/
theorem rxSigDeliversFlags : Obligations.RxSigDeliversFlags :=
  ⟨fun _ _ _ _ _ _ _ hr => (exec_rxSig ..).trans (rxCommit_of_ready hr),
    fun length c1 c2 c3 c4 tail e h0 h1 =>
      decode_signal (h := ⟨marker, length, c1, c2, c3, c4⟩) tail e rfl (classify_of_bits_set h0 h1)⟩

/-! ## The operations held -/

/-- Settles O11: each of the five is a commit, and a commit is held while anything waits. -/
theorem rxOperationsAreHeldWhileAnythingWaits : Obligations.RxOperationsAreHeldWhileAnythingWaits := by
  intro s hwaits
  have hr : rxReady s.fcu = false := (rxReady_eq_false_iff s.fcu).mpr hwaits
  exact ⟨fun b => (exec_rxShort b s).trans (rxCommit_of_held hr),
    fun _ _ => (exec_rxBadmark ..).trans (rxCommit_of_held hr),
    fun _ _ _ _ _ _ => (exec_rxData ..).trans (rxCommit_of_held hr),
    fun _ _ _ _ _ _ => (exec_rxAck ..).trans (rxCommit_of_held hr),
    fun _ _ _ _ _ _ => (exec_rxSig ..).trans (rxCommit_of_held hr)⟩

/-! ## The ignored bits (R44) -/

/-- Flipping the tag bit of a low byte leaves the number read from the pair. -/
theorem unpack15_xor_one (lo hi : Byte) : unpack15 (lo ^^^ 0x01#8) hi = unpack15 lo hi := by
  have hhalf : (lo ^^^ 0x01#8).toNat / 2 = lo.toNat / 2 := by
    rw [BitVec.toNat_xor, Nat.xor_div_two]
    simp
  apply BitVec.eq_of_toNat_eq
  rw [unpack15_toNat, unpack15_toNat, hhalf]

/-- Bits 7 to 2 of `c1` do not change the variant. -/
theorem classify_xor_high (c1 m : Byte) : classify (c1 ^^^ (m &&& 0xFC#8)) = classify c1 := by
  have h0 : (c1 ^^^ (m &&& 0xFC#8)).getLsbD 0 = c1.getLsbD 0 := by simp
  have h1 : (c1 ^^^ (m &&& 0xFC#8)).getLsbD 1 = c1.getLsbD 1 := by simp
  rw [classify, h0, h1, classify]

/-- Settles O12: no meaning reads the ignored operands, and the records of the two buffers are of the same fields. -/
theorem ignoredBitsChangeNothing : Obligations.IgnoredBitsChangeNothing := by
  refine ⟨fun _ _ _ _ _ _ _ _ _ => rfl, fun _ _ _ _ _ _ _ _ _ _ _ => rfl,
    fun _ _ _ _ _ _ _ _ _ _ _ => rfl, ?data, ?ack, ?signal⟩
  case data =>
    intro l c1 c2 c3 c4 h0
    have hc := classify_of_bit0_clear h0
    refine (decodeBuffer_data (h := ⟨marker, l, c1, c2, c3, c4⟩) [] rfl hc).trans
      (Eq.trans ?_ (decodeBuffer_data (h := ⟨marker, l, c1, c2, c3 ^^^ 0x01, c4⟩) [] rfl hc).symm)
    exact congrArg (dataRecord l _) (unpack15_xor_one c3 c4).symm
  case ack =>
    intro l c1 c2 c2' c3 c4 m h0 h1
    have hc := classify_of_bit0_set_bit1_clear h0 h1
    have hc' := (classify_xor_high c1 m).trans hc
    refine (decodeBuffer_ack (h := ⟨marker, l, c1, c2, c3, c4⟩) [] rfl hc).trans
      (Eq.trans ?_ (decodeBuffer_ack (h := ⟨marker, l, _, c2', c3 ^^^ 0x01, c4⟩) [] rfl hc').symm)
    exact congrArg (ackRecord l) (unpack15_xor_one c3 c4).symm
  case signal =>
    intro l c1 c2 c2' c3 c3' c4 c4' h0 h1
    have hc := classify_of_bits_set h0 h1
    exact (decodeBuffer_signal (h := ⟨marker, l, c1, c2, c3, c4⟩) [] rfl hc).trans
      (decodeBuffer_signal (h := ⟨marker, l, c1, c2', c3', c4'⟩) [] rfl hc).symm

/-! ## ACKGEN -/

theorem exec_ackgen (v : Seq15) {s : State} (h : s.fcu.akrV = false) :
    exec (.ackgen v) s = .next (s.setFcu (ackGen v s.fcu)) :=
  if_neg (ne_true_of_eq_false h)

/-- Settles O25: ACKGEN enabled is `ackGen`, whose frame is `EncodeAck` of its operand. -/
theorem ackgenWritesTheAckFrame : Obligations.AckgenWritesTheAckFrame := fun v _ h => exec_ackgen v h

/-- Settles O26: both orders write the record by `commitRecord` and the ack frame by `ackGen`. -/
theorem dataWithAckEnabledIsDataThenAckgen : Obligations.DataWithAckEnabledIsDataThenAckgen := by
  intro l v w t a s hr
  obtain ⟨-, hack⟩ := (rxReady_iff s.fcu).mp hr
  refine ⟨_, (exec_rxData ..).trans (rxCommit_of_ready hr), ?_⟩
  rw [exec_rxData, rxCommit_of_ready hr, commitData_of_no_ack, commitData_of_ack]
  exact (exec_ackgen (s := s.setFcu (commitRecord _ s.fcu)) _ hack).symm

end Sys2Proof.Proofs
end

section
/-! PROOFS. The encode operations (O16, O17, O18, O20, O22; R51, R68 to R70, R75) and the two round trips between
`DecodeBuffer` and the encoder (O23, O24; R73, R74). -/

namespace Sys2Proof.Proofs

open Machine Laws Safety

/-! ## The bytes of the three encoders -/

theorem encodeData_of_fits {paylen : Byte} (send recv : Seq15) (h : paylen.toNat ≤ 251) :
    encodeData send recv paylen =
      { err := 0
        bytes := { start := marker, length := lenBase + paylen, c1 := (pack15 send).1, c2 := (pack15 send).2
                   c3 := (pack15 recv).1, c4 := (pack15 recv).2 } } := by
  have hfits : ¬ paylen > paylenMax := Nat.not_lt.mpr h
  rw [encodeData, if_neg hfits]

theorem lenBase_add (paylen : Byte) : lenBase + paylen = BitVec.ofNat 8 (4 + paylen.toNat) := by
  rw [BitVec.ofNat_add, BitVec.ofNat_toNat, BitVec.setWidth_eq]
  rfl

/-- `c1` of a control-signal frame as a number (R70). -/
theorem signalC1_eq (flags : Flags6) :
    (flags.setWidth 8 <<< 2) ||| 0b11#8 = BitVec.ofNat 8 (4 * flags.toNat + 3) := by
  apply BitVec.eq_of_toNat_eq
  rw [taggedC1_toNat flags (by decide), BitVec.toNat_ofNat, BitVec.toNat_ofNat]
  omega

/-! ## The operations -/

theorem exec_encData (send recv : Seq15) (flags : Flags6) (paylen : Byte) (s : State) :
    exec (.encData send recv flags paylen) s = answerRequest (encodeData send recv paylen) s := rfl

theorem exec_encSig (send recv : Seq15) (flags : Flags6) (paylen : Byte) (s : State) :
    exec (.encSig send recv flags paylen) s = answerRequest (encodeSignal flags) s := rfl

/-- Settles O16: ENC.DATA answers `EncodeData`, by its length test. -/
theorem encDataAnswersHeaderOrLengthOverflow : Obligations.EncDataAnswersHeaderOrLengthOverflow := by
  refine fun send recv flags paylen s => ⟨fun hfits => ?_, fun hover => ?_, rfl⟩
  · rw [exec_encData, encodeData_of_fits send recv hfits, lenBase_add]
    rfl
  · rw [exec_encData, encodeData_of_overflow send recv hover]
    rfl

/-- Settles O17: ENC.ACK answers `EncodeAck`, whose code is 0. -/
theorem encAckAnswersAckFrame : Obligations.EncAckAnswersAckFrame := fun _ recv _ _ s =>
  ⟨answerRequest_eq (encodeAck recv) s, rfl⟩

/-- Settles O18: ENC.SIG answers `EncodeSignal`, its `c1` as a number. -/
theorem encSigAnswersSignalFrame : Obligations.EncSigAnswersSignalFrame := by
  refine fun send recv flags paylen s => ⟨?_, rfl⟩
  rw [exec_encSig, encodeSignal, signalC1_eq]
  rfl

/-- Settles O20: each pseudo-operation answers `EncodeSignal` of its flag, as ENC.SIG does; the words by evaluation. -/
theorem pseudoOperationsAreSingleFlagSignals : Obligations.PseudoOperationsAreSingleFlagSignals := fun v w p s =>
  ⟨answerRequest_eq (encodeSignal flagStartAct) s, answerRequest_eq (encodeSignal flagStartCon) s,
    answerRequest_eq (encodeSignal flagStopAct) s, answerRequest_eq (encodeSignal flagStopCon) s,
    answerRequest_eq (encodeSignal flagTestAct) s, answerRequest_eq (encodeSignal flagTestCon) s,
    exec_encSig v w _ p s, exec_encSig v w _ p s, exec_encSig v w _ p s, exec_encSig v w _ p s,
    exec_encSig v w _ p s, exec_encSig v w _ p s⟩

/-- Settles O22: the answer is a function of the request, and ENC writes only what the host gets. -/
theorem encodeAndBlockDoNotInterfere : Obligations.EncodeAndBlockDoNotInterfere :=
  fun _ _ _ _ _ h₁ h₂ => ⟨_, _, _, step_request h₁, step_request h₂, rfl, rfl, rfl, rfl⟩

/-! ## Decode after encode (R73) -/

theorem recvOf_encodeAck (recv : Seq15) : recvOf (encodeAck recv).bytes = recv := unpack15_pack15 recv

theorem flagsOf_encodeSignal (flags : Flags6) : flagsOf (encodeSignal flags).bytes = flags := high_signalC1 flags

theorem decodeBuffer_encodeData {paylen : Byte} (send recv : Seq15) (tail : List Byte) (h : paylen.toNat ≤ 251) :
    decodeBuffer (headerBytes (encodeData send recv paylen).bytes ++ tail) =
      dataRecord (lenBase + paylen) send recv := by
  rw [encodeData_of_fits send recv h, decodeBuffer_data tail rfl (classify_pack15_lo send)]
  simp only [sendOf, recvOf, unpack15_pack15]

theorem decodeBuffer_encodeAck (recv : Seq15) :
    decodeBuffer (headerBytes (encodeAck recv).bytes) = ackRecord lenBase recv := by
  have hdec := decodeBuffer_ack (h := (encodeAck recv).bytes) [] rfl (show classify 0x01#8 = .ack by decide)
  rwa [recvOf_encodeAck, List.append_nil] at hdec

theorem decodeBuffer_encodeSignal (flags : Flags6) :
    decodeBuffer (headerBytes (encodeSignal flags).bytes) = signalRecord lenBase flags := by
  have hdec := decodeBuffer_signal (h := (encodeSignal flags).bytes) [] rfl (classify_signalC1 flags)
  rwa [flagsOf_encodeSignal, List.append_nil] at hdec

/-- Settles O23: the record of each encoder's bytes; the two pairs by evaluation. -/
theorem decodeAfterEncodeGivesTheRequestBack : Obligations.DecodeAfterEncodeGivesTheRequestBack := by
  refine ⟨fun s r p P hp => ⟨encodeData_err_of_fits s r hp, ?_⟩, decodeBuffer_encodeAck, decodeBuffer_encodeSignal,
    by decide, by decide⟩
  have hnrecv : ackValue s = BitVec.ofNat 15 ((s.toNat + 1) % 32768) := by
    rw [← ackValue_toNat, BitVec.ofNat_toNat, BitVec.setWidth_eq]
  rw [decodeBuffer_encodeData s r P hp, lenBase_add, ← hnrecv]
  rfl

/-! ## Encode after decode (R74) -/

/-- A `length` that counts the four bytes after it gives a payload length, from which `length` is made again. -/
theorem lenBase_add_sub {length : Byte} (h : 4 ≤ length.toNat) :
    (length - 4).toNat ≤ 251 ∧ lenBase + (length - 4) = length := by
  refine ⟨?_, by rw [lenBase]; bv_omega⟩
  bv_omega

/-- A `length` below 4 wraps to a payload length that does not fit (assumption log 23). -/
theorem length_sub_overflows {length : Byte} (h : length.toNat < 4) : 251 < (length - 4).toNat := by
  bv_omega

/-- The ack frames the encoder makes are canonical. -/
theorem canonical_encodeAck (recv : Seq15) : canonical (encodeAck recv).bytes :=
  ⟨rfl, .inr (.inl ⟨rfl, rfl, pack15_lo_getLsbD_zero recv, rfl⟩)⟩

/-- The control-signal frames the encoder makes are canonical. -/
theorem canonical_encodeSignal (flags : Flags6) : canonical (encodeSignal flags).bytes := by
  obtain ⟨h0, h1⟩ := (classify_eq_signal_iff _).mp (classify_signalC1 flags)
  exact ⟨rfl, .inr (.inr ⟨h0, h1, rfl, rfl, rfl, rfl⟩)⟩

/-- A data frame of the encoder is canonical when its payload length fits. -/
theorem canonical_encodeData {paylen : Byte} (send recv : Seq15) (h : paylen.toNat ≤ 251) :
    canonical (encodeData send recv paylen).bytes := by
  rw [encodeData_of_fits send recv h]
  refine ⟨rfl, .inl ⟨pack15_lo_getLsbD_zero send, pack15_lo_getLsbD_zero recv, ?_⟩⟩
  rw [lenBase_add, BitVec.toNat_ofNat]
  omega

/-- What `canonical` asks of each variant. -/
theorem canonical_data_iff {h : Header} (hm : h.start = marker) (hc : classify h.c1 = .data) :
    canonical h ↔ h.c3.getLsbD 0 = false ∧ 4 ≤ h.length.toNat := by
  have h0 := (classify_eq_data_iff h.c1).mp hc
  have hne : h.c1 ≠ 0x01#8 := fun heq => absurd hc (heq ▸ by decide)
  rw [canonical, h0]
  simp [hm, hne, marker]

theorem canonical_ack_iff {h : Header} (hm : h.start = marker) (hc : classify h.c1 = .ack) :
    canonical h ↔ h.c1 = 0x01#8 ∧ h.c2 = 0 ∧ h.c3.getLsbD 0 = false ∧ h.length = 4 := by
  obtain ⟨h0, h1⟩ := (classify_eq_ack_iff h.c1).mp hc
  rw [canonical, h0, h1]
  simp [hm, marker]

theorem canonical_signal_iff {h : Header} (hm : h.start = marker) (hc : classify h.c1 = .signal) :
    canonical h ↔ h.c2 = 0 ∧ h.c3 = 0 ∧ h.c4 = 0 ∧ h.length = 4 := by
  obtain ⟨h0, h1⟩ := (classify_eq_signal_iff h.c1).mp hc
  have hne : h.c1 ≠ 0x01#8 := fun heq => absurd hc (heq ▸ by decide)
  rw [canonical, h0, h1]
  simp [hm, hne, marker]

/-- Encoding a data frame again: with a `length` below 4 the encoder fails, and its zero bytes have no marker. -/
theorem encodeData_again_iff {h : Header} (hm : h.start = marker) (hc : classify h.c1 = .data) :
    (encodeData (sendOf h) (recvOf h) (h.length - 4)).bytes = h ↔ h.c3.getLsbD 0 = false ∧ 4 ≤ h.length.toNat := by
  obtain hlen | hlen := Nat.lt_or_ge h.length.toNat 4
  · rw [encodeData_of_overflow _ _ (length_sub_overflows hlen)]
    have hne : (encFail 2#2).bytes ≠ h := fun heq => absurd (heq ▸ hm) (by decide)
    simp only [hne, Nat.not_le.mpr hlen, and_false]
  · obtain ⟨hfits, hlength⟩ := lenBase_add_sub hlen
    rw [encodeData_of_fits _ _ hfits, hlength]
    obtain ⟨start, length, c1, c2, c3, c4⟩ := h
    have hc1 : (pack15 (unpack15 c1 c2)).1 = c1 :=
      (pack15_unpack15_lo_eq_iff c1 c2).mpr ((classify_eq_data_iff c1).mp hc)
    simp only [sendOf, recvOf, Header.mk.injEq, hm.symm, hc1, pack15_unpack15_hi, pack15_unpack15_lo_eq_iff, hlen,
      true_and, and_true]

theorem encodeAck_again_iff {h : Header} (hm : h.start = marker) :
    (encodeAck (recvOf h)).bytes = h ↔ h.c1 = 0x01#8 ∧ h.c2 = 0 ∧ h.c3.getLsbD 0 = false ∧ h.length = 4 := by
  obtain ⟨start, length, c1, c2, c3, c4⟩ := h
  simp only [encodeAck, recvOf, Header.mk.injEq, hm.symm, pack15_unpack15_hi, pack15_unpack15_lo_eq_iff, lenBase,
    true_and, and_true]
  constructor
  · rintro ⟨hlen, hc1, hc2, hc3⟩
    exact ⟨hc1.symm, hc2.symm, hc3, hlen.symm⟩
  · rintro ⟨hc1, hc2, hc3, hlen⟩
    exact ⟨hlen.symm, hc1.symm, hc2.symm, hc3⟩

theorem encodeSignal_again_iff {h : Header} (hm : h.start = marker) (hc : classify h.c1 = .signal) :
    (encodeSignal (flagsOf h)).bytes = h ↔ h.c2 = 0 ∧ h.c3 = 0 ∧ h.c4 = 0 ∧ h.length = 4 := by
  obtain ⟨start, length, c1, c2, c3, c4⟩ := h
  have hc1 := signalC1_of_classify hc
  simp only [encodeSignal, flagsOf, Header.mk.injEq, hm.symm, hc1, lenBase, true_and]
  constructor
  · rintro ⟨hlen, hc2, hc3, hc4⟩
    exact ⟨hc2.symm, hc3.symm, hc4.symm, hlen.symm⟩
  · rintro ⟨hc2, hc3, hc4, hlen⟩
    exact ⟨hlen.symm, hc2.symm, hc3.symm, hc4.symm⟩

/-- The encoding of the record of six bytes, by the variant of their `c1`. -/
theorem reencode_data {h : Header} (hm : h.start = marker) (hc : classify h.c1 = .data) :
    reencode (decodeBuffer (headerBytes h)) = encodeData (sendOf h) (recvOf h) (h.length - 4) :=
  congrArg reencode (decodeBuffer_data [] hm hc)

theorem reencode_ack {h : Header} (hm : h.start = marker) (hc : classify h.c1 = .ack) :
    reencode (decodeBuffer (headerBytes h)) = encodeAck (recvOf h) :=
  congrArg reencode (decodeBuffer_ack [] hm hc)

theorem reencode_signal {h : Header} (hm : h.start = marker) (hc : classify h.c1 = .signal) :
    reencode (decodeBuffer (headerBytes h)) = encodeSignal (flagsOf h) :=
  congrArg reencode (decodeBuffer_signal [] hm hc)

/-- Settles O24: variant by variant, encoding again gives the six bytes under the conditions `canonical` states. -/
theorem encodeAfterDecodeHoldsForCanonicalFramesOnly : Obligations.EncodeAfterDecodeHoldsForCanonicalFramesOnly := by
  intro h hm
  cases hc : classify h.c1 with
  | data =>
    have h0 := (classify_eq_data_iff h.c1).mp hc
    rw [reencode_data hm hc, encodeData_again_iff hm hc, canonical_data_iff hm hc]
    refine ⟨Iff.rfl, fun hor => ?_⟩
    have hlen := hor.resolve_left (ne_true_of_eq_false h0)
    exact canonical_encodeData _ _ (lenBase_add_sub hlen).1
  | ack =>
    rw [reencode_ack hm hc, encodeAck_again_iff hm, canonical_ack_iff hm hc]
    exact ⟨Iff.rfl, fun _ => canonical_encodeAck _⟩
  | signal =>
    rw [reencode_signal hm hc, encodeSignal_again_iff hm hc, canonical_signal_iff hm hc]
    exact ⟨Iff.rfl, fun _ => canonical_encodeSignal _⟩

end Sys2Proof.Proofs
end

section
/-! PROOFS. The decoder and `encode` are inverse, both ways round (O44, O45; R49, R51, R77), and what the decoder gives
is well formed (O30, O31). The three frame layouts are read and written back field by field. -/

namespace Sys2Proof.Proofs

open Machine Laws Safety

/-! ## Decoding an encoded operation -/

theorem decode_dataFrameBytes (length : Byte) (send recv : Seq15) (tag : BitVec 1) (adu : List Byte) (e : Bool) :
    decode (.buffer (dataFrameBytes length send recv tag adu) e) = .rxData length send recv tag adu e := by
  let h : Header := ⟨marker, length, (pack15 send).1, (pack15 send).2, pairLow recv tag, (pack15 recv).2⟩
  refine (decode_data (h := h) adu e rfl (classify_pack15_lo send)).trans ?_
  simp only [h, sendOf, recvOf, unpack15_pack15, unpack15_pairLow, tag_pairLow]

theorem decode_ackFrameBytes (length : Byte) (recv : Seq15) (high : BitVec 6) (c2 : Byte) (tag : BitVec 1)
    (rest : List Byte) (e : Bool) :
    decode (.buffer (ackFrameBytes length recv high c2 tag rest) e) = .rxAck length recv high c2 tag rest := by
  let h : Header := ⟨marker, length, (high.setWidth 8 <<< 2) ||| 0b01#8, c2, pairLow recv tag, (pack15 recv).2⟩
  refine (decode_ack (h := h) rest e rfl (classify_ackC1 high)).trans ?_
  simp only [h, recvOf, unpack15_pairLow, tag_pairLow, high_ackC1]

theorem decode_signalFrameBytes (length : Byte) (flags : Flags6) (c2 c3 c4 : Byte) (rest : List Byte) (e : Bool) :
    decode (.buffer (signalFrameBytes length flags c2 c3 c4 rest) e) = .rxSig length flags c2 c3 c4 rest := by
  let h : Header := ⟨marker, length, (flags.setWidth 8 <<< 2) ||| 0b11#8, c2, c3, c4⟩
  refine (decode_signal (h := h) rest e rfl (classify_signalC1 flags)).trans ?_
  simp only [h, flagsOf, high_signalC1]

/-- A well-formed RX.BADMARK has the bytes that select it. -/
theorem decode_of_badmark_wellFormed {start : Byte} {rest : List Byte} (e : Bool)
    (hwf : (Instr.rxBadmark start rest).wellFormed = true) :
    decode (.buffer (start :: rest) e) = .rxBadmark start rest := by
  obtain ⟨hm, hlen⟩ := Bool.and_eq_true_iff.mp hwf
  exact decode_badmark_of_length e (of_decide_eq_true hm) (Nat.le_of_succ_le_succ (of_decide_eq_true hlen))

theorem decode_signalRequest (flags : Flags6) : decode (signalRequest flags) = .encSig 0 0 flags 0 := rfl

/-- Decoding the stimulus of an operation, constructor by constructor. -/
theorem decode_of_encode {i : Instr} {x : Stimulus} (hwf : i.wellFormed = true) (henc : encode i = some x) :
    decode x = expand i := by
  cases i <;> cases henc
  case rxShort => exact decode_short _ (of_decide_eq_true hwf)
  case rxBadmark => exact decode_of_badmark_wellFormed _ hwf
  case rxData => exact decode_dataFrameBytes ..
  case rxAck => exact decode_ackFrameBytes ..
  case rxSig => exact decode_signalFrameBytes ..
  case encData | encAck | encSig | encRsvd => rfl
  case startAct | startCon | stopAct | stopCon | testAct | testCon => exact decode_signalRequest _

theorem encode_eq_none_iff (i : Instr) : encode i = none ↔ ∃ v, i = .ackgen v := by
  cases i <;> simp [encode]

/-- Settles O44: the three frame layouts are read back, the other stimuli select their operation as they stand. -/
theorem decodeOfEncodeIsTheOperation : Obligations.DecodeOfEncodeIsTheOperation :=
  ⟨fun _ _ => decode_of_encode, encode_eq_none_iff⟩

/-! ## Encoding a decoded stimulus -/

theorem dataFrameBytes_fields {h : Header} (tail : List Byte) (hm : h.start = marker) (hc : classify h.c1 = .data) :
    dataFrameBytes h.length (sendOf h) (recvOf h) (h.c3.extractLsb' 0 1) tail = headerBytes h ++ tail := by
  have hc1 : (pack15 (unpack15 h.c1 h.c2)).1 = h.c1 :=
    (pack15_unpack15_lo_eq_iff ..).mpr ((classify_eq_data_iff h.c1).mp hc)
  simp only [dataFrameBytes, headerBytes, sendOf, recvOf, hc1, pack15_unpack15_hi, pairLow_unpack15, hm]

theorem ackFrameBytes_fields {h : Header} (tail : List Byte) (hm : h.start = marker) (hc : classify h.c1 = .ack) :
    ackFrameBytes h.length (recvOf h) (h.c1.extractLsb' 2 6) h.c2 (h.c3.extractLsb' 0 1) tail =
      headerBytes h ++ tail := by
  simp only [ackFrameBytes, headerBytes, recvOf, ackC1_of_classify hc, pack15_unpack15_hi, pairLow_unpack15, hm]

theorem signalFrameBytes_fields {h : Header} (tail : List Byte) (hm : h.start = marker)
    (hc : classify h.c1 = .signal) :
    signalFrameBytes h.length (flagsOf h) h.c2 h.c3 h.c4 tail = headerBytes h ++ tail := by
  simp only [signalFrameBytes, headerBytes, flagsOf, signalC1_of_classify hc, hm]

/-- The operation of a buffer encodes to the same bytes; the level of `ack_en` is kept where the operation has it. -/
theorem encode_decode_buffer (b : List Byte) (e : Bool) :
    ∃ e', encode (decode (.buffer b e)) = some (.buffer b e') ∧
      ((∃ l v w t a, decode (.buffer b e) = .rxData l v w t a e) → e' = e) := by
  obtain hb | ⟨h, tail, rfl⟩ := buffer_cases b
  · rw [decode_short e hb]
    exact ⟨false, rfl, by rintro ⟨_, _, _, _, _, hdata⟩; cases hdata⟩
  obtain ⟨-, hisData, -, -⟩ := decode_selects_iff h tail e
  rw [hisData]
  by_cases hm : h.start = marker
  · cases hc : classify h.c1 with
    | data =>
      rw [decode_data tail e hm hc]
      exact ⟨e, by rw [encode, dataFrameBytes_fields tail hm hc], fun _ => rfl⟩
    | ack =>
      rw [decode_ack tail e hm hc]
      exact ⟨false, by rw [encode, ackFrameBytes_fields tail hm hc], by rintro ⟨-, hdata⟩; cases hdata⟩
    | signal =>
      rw [decode_signal tail e hm hc]
      exact ⟨false, by rw [encode, signalFrameBytes_fields tail hm hc], by rintro ⟨-, hdata⟩; cases hdata⟩
  · rw [decode_badmark tail e hm]
    exact ⟨false, rfl, fun hdata => absurd hdata.1 hm⟩

theorem encode_decode_request (r : Request) : encode (decode (.request r)) = some (.request r) := by
  obtain ⟨var, send, recv, flags, paylen⟩ := r
  obtain rfl | rfl | rfl | rfl := code2_cases var <;> rfl

/-- Settles O45: no bit of a buffer or of a request is lost in decoding. -/
theorem encodeOfDecodeKeepsEveryBit : Obligations.EncodeOfDecodeKeepsEveryBit :=
  ⟨encode_decode_buffer, encode_decode_request⟩

/-! ## Well-formedness of what is decoded -/

theorem decode_buffer_wellFormed (b : List Byte) (e : Bool) : (decode (.buffer b e)).wellFormed = true := by
  obtain hb | ⟨h, tail, rfl⟩ := buffer_cases b
  · rw [decode_short e hb]
    exact decide_eq_true hb
  · by_cases hm : h.start = marker
    · cases hc : classify h.c1 with
      | data => rw [decode_data tail e hm hc]; rfl
      | ack => rw [decode_ack tail e hm hc]; rfl
      | signal => rw [decode_signal tail e hm hc]; rfl
    · rw [decode_badmark tail e hm]
      simp [Instr.wellFormed, hm, hdrSize]

theorem decode_request_wellFormed (r : Request) : (decode (.request r)).wellFormed = true := by
  obtain ⟨var, send, recv, flags, paylen⟩ := r
  obtain rfl | rfl | rfl | rfl := code2_cases var <;> rfl

/-- Settles O30: the decoder gives well-formed operations only, and `step` performs the next action or is idle. -/
theorem stepRunsTheDecodedOperation : Obligations.StepRunsTheDecodedOperation := by
  refine ⟨fun s x rest h => ⟨?_, step_cons h⟩, fun s => step_nil⟩
  cases x with
  | buffer b e => exact decode_buffer_wellFormed b e
  | request r => exact decode_request_wellFormed r

/-- Settles O31: ten closed words, decoded by evaluation. -/
theorem specWordsDecodeToTheirOperations : Obligations.SpecWordsDecodeToTheirOperations := by
  unfold Obligations.SpecWordsDecodeToTheirOperations
  decide

end Sys2Proof.Proofs
end

section
/-! PROOFS. One step and short runs, host action by host action: that every step completes (O48), RESET (O27 to O29),
RX.BUF and RX.BYTE (O32 to O34), the takes (O35 to O39) and the clock edge (O41, O42). -/

namespace Sys2Proof.Proofs

open Machine Laws Safety

/-! ## Every operation and every step completes -/

theorem rxCommit_completes (u : Fcu → Fcu) (s : State) :
    ∃ t, rxCommit u s = .next t ∧ t.script = s.script ∧ t.fresh = s.fresh := by
  cases hr : rxReady s.fcu with
  | false => exact ⟨_, rxCommit_of_held hr, rfl, rfl⟩
  | true => exact ⟨_, rxCommit_of_ready hr, rfl, rfl⟩

theorem answerRequest_completes (r : EncResult) (s : State) :
    ∃ t, answerRequest r s = .next t ∧ t.script = s.script ∧ t.fresh = s.fresh :=
  ⟨_, answerRequest_eq r s, rfl, rfl⟩

theorem execAckgen_completes (v : Seq15) (s : State) :
    ∃ t, execAckgen v s = .next t ∧ t.script = s.script ∧ t.fresh = s.fresh := by
  cases hv : s.fcu.akrV with
  | false => exact ⟨_, exec_ackgen v hv, rfl, rfl⟩
  | true => exact ⟨_, if_pos hv, rfl, rfl⟩

theorem exec_completes (i : Instr) (s : State) :
    ∃ t, exec i s = .next t ∧ t.script = s.script ∧ t.fresh = s.fresh := by
  cases i
  case rxShort | rxBadmark | rxData | rxAck | rxSig => exact rxCommit_completes _ s
  case ackgen v => exact execAckgen_completes v s
  all_goals exact answerRequest_completes _ s

theorem takeRec_completes (s : State) : ∃ t, takeRec s = .next t ∧ t.script = s.script := by
  cases hv : s.fcu.rxrV with
  | false => exact ⟨_, if_neg (ne_true_of_eq_false hv), rfl⟩
  | true => exact ⟨_, if_pos hv, rfl⟩

theorem takeAck_completes (s : State) : ∃ t, takeAck s = .next t ∧ t.script = s.script := by
  cases hv : s.fcu.akrV with
  | false => exact ⟨_, if_neg (ne_true_of_eq_false hv), rfl⟩
  | true => exact ⟨_, if_pos hv, rfl⟩

theorem rxByte_completes (d : Byte) (last e : Bool) (s : State) :
    ∃ t, rxByte d last e s = .next t ∧ t.script = s.script := by
  rw [rxByte_eq]
  split_ifs
  · exact ⟨_, rfl, rfl⟩
  · exact ⟨_, rfl, rfl⟩
  · obtain ⟨t, hexec, hscript, -⟩ := exec_completes _ (s.setFcu (capture d s.fcu))
    exact ⟨t, hexec, hscript⟩

theorem clockEdge_completes (p : Pins) (s : State) : ∃ t, clockEdge p s = .next t ∧ t.script = s.script := by
  cases hrst : p.rst with
  | false => exact ⟨_, clockEdge_of_run hrst, edgeNext_script p s⟩
  | true => exact ⟨_, clockEdge_of_reset hrst, rfl⟩

theorem perform_completes (a : HostAction) (s : State) : ∃ t, perform a s = .next t ∧ t.script = s.script := by
  cases a with
  | stimulus x =>
    obtain ⟨t, hexec, hscript, -⟩ := exec_completes (decode x) s
    exact ⟨t, hexec, hscript⟩
  | rxByte d last e => exact rxByte_completes d last e s
  | takeRec => exact takeRec_completes s
  | takeAck => exact takeAck_completes s
  | reset => exact ⟨_, rfl, rfl⟩
  | edge p => exact clockEdge_completes p s

theorem step_completes (s : State) : ∃ t, step s = .next t ∧ t.script = s.script.tail := by
  cases hscript : s.script with
  | nil => exact ⟨s, step_nil hscript, hscript⟩
  | cons a rest =>
    rw [step_cons hscript]
    exact perform_completes a { s with script := rest }

/-- Settles O48: every operation and every host action answers a next state and leaves the remaining actions. -/
theorem everyStepCompletes : Obligations.EveryStepCompletes := ⟨exec_completes, step_completes⟩

/-! ## Runs of a few steps -/

/-- The first step of a run. -/
theorem run_succ {s m : State} (k : Nat) (h : step s = .next m) :
    Host.Core.run Sys2Proof.core (k + 1) s = Host.Core.run Sys2Proof.core k m := by
  rw [Nat.add_comm]
  exact run_add (run_one h)

theorem run_two {s m t : State} (h₁ : step s = .next m) (h₂ : step m = .next t) :
    Host.Core.run Sys2Proof.core 2 s = .next t :=
  (run_succ 1 h₁).trans (run_one h₂)

theorem run_three {s m n t : State} (h₁ : step s = .next m) (h₂ : step m = .next n) (h₃ : step n = .next t) :
    Host.Core.run Sys2Proof.core 3 s = .next t :=
  (run_succ 2 h₁).trans (run_two h₂ h₃)

/-! ## RESET -/

theorem step_reset {s : State} {rest : List HostAction} (h : s.script = .reset :: rest) :
    step s = .next (resetStep { s with script := rest }) := step_cons h

/-- Settles O27: the three values stand in `Fcu.reset`. -/
theorem resetStateHasTheSpecValues : Obligations.ResetStateHasTheSpecValues := ⟨rfl, rfl, rfl⟩

/-- Settles O28: the fields of `resetStep`. -/
theorem resetStepIsAlwaysEnabled : Obligations.ResetStepIsAlwaysEnabled := fun _ _ h =>
  ⟨_, step_reset h, resetStep_rxn _, resetStep_rxrV _, resetStep_akrV _, resetStep_script _, resetStep_got _⟩

theorem recordLedger_of_empty {s : State} (h : s.fcu.rxrV = false) : recordLedger s = recordsTaken s := by
  simp [recordLedger, h]

theorem ackLedger_of_empty {s : State} (h : s.fcu.akrV = false) : ackLedger s = acksTaken s := by
  simp [ackLedger, h]

/-- With `RXN` 0 no byte counts as captured, whatever the capture registers hold. -/
theorem captured_of_rxn_zero {f : Fcu} (h : f.rxn = 0) : captured f = [] := by
  simp [captured, h]

theorem captured_capture_of_rxn_zero {f : Fcu} (d : Byte) (h : f.rxn = 0) : captured (capture d f) = [d] := by
  rw [captured_capture, captured_of_rxn_zero h, h]
  rfl

/-- Settles O29: the valid bits and `RXN` are 0, so the ledgers end with what was taken and the captured bytes are
none. -/
theorem resetDiscardsWhatWaits : Obligations.ResetDiscardsWhatWaits := fun _ _ h =>
  ⟨_, step_reset h, (recordLedger_of_empty (resetStep_rxrV _)).trans (recordsTaken_of_got (resetStep_got _)),
    (ackLedger_of_empty (resetStep_akrV _)).trans (acksTaken_of_got (resetStep_got _)),
    captured_of_rxn_zero (resetStep_rxn _), fun d => captured_capture_of_rxn_zero d (resetStep_rxn _)⟩

/-! ## RX.BUF and RX.BYTE -/

theorem not_idle_of_held {f : Fcu} (h : rxReady f = false) : ¬(f.rxrV = false ∧ f.akrV = false) :=
  (rxReady_iff f).not.mp (ne_true_of_eq_false h)

theorem not_waiting_of_ready {f : Fcu} (h : rxReady f = true) : ¬(f.rxrV = true ∨ f.akrV = true) :=
  (rxReady_eq_false_iff f).not.mp (ne_false_of_eq_true h)

/-- Settles O32: enabled, the step is `commitFcu` of the buffer; held, it changes nothing of the block. -/
theorem rxBufStepCommitsTheBuffer : Obligations.RxBufStepCommitsTheBuffer := by
  intro s B e rest h
  cases hr : rxReady s.fcu with
  | false => exact ⟨_, step_buffer_held h hr, rfl, fun hidle => absurd hidle (not_idle_of_held hr), fun _ => rfl⟩
  | true =>
    obtain ⟨-, hack⟩ := (rxReady_iff s.fcu).mp hr
    refine ⟨_, step_buffer_ready h hr, rfl, fun _ => ⟨commitFcu_rxr .., commitFcu_rxrV .., commitFcu_ack,
      fun htrig => ?_, fun _ => commitFcu_rxn .., rfl, rfl⟩, fun hwaits => absurd hwaits (not_waiting_of_ready hr)⟩
    rw [← hack]
    exact commitFcu_no_ack htrig

/-- At `RXN` = 6 the capture drops the byte. -/
theorem capture_rxh_of_full {f : Fcu} (d : Byte) (h : f.rxn.val = 6) : (capture d f).rxh = f.rxh := by
  rw [capture_rxh, h]
  rfl

/-- Settles O33: held, captured only, or captured and committed. -/
theorem rxByteStepCapturesAndCommits : Obligations.RxByteStepCapturesAndCommits := by
  intro s d last e rest h
  cases hr : rxReady s.fcu with
  | false => exact ⟨_, step_byte_held h hr, rfl, fun hidle => absurd hidle (not_idle_of_held hr), fun _ => rfl⟩
  | true =>
    obtain ⟨hrec, hack⟩ := (rxReady_iff s.fcu).mp hr
    have hset : headerBytes (capture d s.fcu).rxh = (headerBytes s.fcu.rxh).set s.fcu.rxn.val d :=
      headerBytes_setHeaderByte ..
    have hnotheld := not_waiting_of_ready hr
    cases last with
    | false =>
      exact ⟨_, step_byte_inner h hr, rfl,
        fun _ => ⟨rfl, fun _ => hset, capture_rxh_of_full d, fun _ => ⟨capture_rxn .., rfl, hrec, rfl, hack⟩, nofun⟩,
        fun hheld => absurd hheld hnotheld⟩
    | true =>
      refine ⟨_, step_byte_last h hr, rfl, fun _ => ⟨rfl, fun _ => ?_, fun hfull => ?_, nofun, fun _ => ?_⟩,
        fun hheld => absurd hheld hnotheld⟩
      · rw [commitFcu_rxh, hset]
      · rw [commitFcu_rxh, capture_rxh_of_full d hfull]
      · refine ⟨decodeBuffer (captured (capture d s.fcu)), ?_, commitFcu_rxn .., commitFcu_rxr .., commitFcu_rxrV ..,
          commitFcu_ack, fun htrig => ?_⟩
        · rw [commitFcu_rxh, captured, capture_rxn]
        · rw [← hack]
          exact commitFcu_no_ack htrig

/-- Settles O34: held or captured, the step of an inner byte does not name `ack_en`. -/
theorem ackEnableIsReadOnlyAtTheCommit : Obligations.AckEnableIsReadOnlyAtTheCommit := by
  intro s₁ s₂ d rest h₁ h₂ hfcu hgot hfresh
  cases hr : rxReady s₁.fcu with
  | false => rw [step_byte_held h₁ hr, step_byte_held h₂ (hfcu ▸ hr), hfcu, hgot, hfresh]
  | true => rw [step_byte_inner h₁ hr, step_byte_inner h₂ (hfcu ▸ hr), hfcu, hgot, hfresh]

/-! ## The takes -/

theorem step_takeRec_enabled {s : State} {rest : List HostAction} (h : s.script = .takeRec :: rest)
    (hv : s.fcu.rxrV = true) : step s = .next (giveRecord { s with script := rest }) :=
  (step_cons h).trans (if_pos hv)

theorem step_takeRec_passed {s : State} {rest : List HostAction} (h : s.script = .takeRec :: rest)
    (hv : s.fcu.rxrV = false) : step s = .next ({ s with script := rest }.tell (.held .recordOut)) :=
  (step_cons h).trans (if_neg (ne_true_of_eq_false hv))

theorem step_takeAck_enabled {s : State} {rest : List HostAction} (h : s.script = .takeAck :: rest)
    (hv : s.fcu.akrV = true) : step s = .next (giveAck { s with script := rest }) :=
  (step_cons h).trans (if_pos hv)

theorem step_takeAck_passed {s : State} {rest : List HostAction} (h : s.script = .takeAck :: rest)
    (hv : s.fcu.akrV = false) : step s = .next ({ s with script := rest }.tell (.held .ackOut)) :=
  (step_cons h).trans (if_neg (ne_true_of_eq_false hv))

/-- Settles O35: the take hands over `RXR` or is passed over. -/
theorem recordTakeHandsOverTheRecord : Obligations.RecordTakeHandsOverTheRecord := fun _ _ h =>
  ⟨step_takeRec_enabled h, fun hv => ⟨_, step_takeRec_passed h hv, rfl, rfl, recordsTaken_held .., acksTaken_held ..⟩⟩

/-- Settles O36: the take hands over `AKR` or is passed over. -/
theorem ackTakeHandsOverTheFrame : Obligations.AckTakeHandsOverTheFrame := fun _ _ h =>
  ⟨step_takeAck_enabled h, fun hv => ⟨_, step_takeAck_passed h hv, rfl, rfl, recordsTaken_held .., acksTaken_held ..⟩⟩

/-- What the takes asked for do (R67, R78): a waiting output that is taken goes to the host and its valid bit to 0, and
nothing else of the block changes. `rec` and `ack` say whether a take of the record and of the ack frame is made. -/
structure Takes (rec ack : Bool) (s t : State) : Prop where
  fcu     : t.fcu = { s.fcu with rxrV := s.fcu.rxrV && !rec, akrV := s.fcu.akrV && !ack }
  records : recordsTaken t = recordsTaken s ++ (if s.fcu.rxrV && rec then [s.fcu.rxr] else [])
  acks    : acksTaken t = acksTaken s ++ (if s.fcu.akrV && ack then [s.fcu.akr] else [])

theorem Takes.none {s t : State} (hfcu : t.fcu = s.fcu) (hrec : recordsTaken t = recordsTaken s)
    (hack : acksTaken t = acksTaken s) : Takes false false s t :=
  ⟨by simp [hfcu], by simp [hrec], by simp [hack]⟩

/-- A record take that finds nothing is none. -/
theorem Takes.record_of_empty {ack : Bool} {s t : State} (hv : s.fcu.rxrV = false) (h : Takes false ack s t) :
    Takes true ack s t :=
  ⟨by simp [h.fcu, hv], by simp [h.records, hv], h.acks⟩

theorem Takes.ack_of_empty {rec : Bool} {s t : State} (hv : s.fcu.akrV = false) (h : Takes rec false s t) :
    Takes rec true s t :=
  ⟨by simp [h.fcu, hv], h.records, by simp [h.acks, hv]⟩

theorem takes_giveRecord {s : State} (hv : s.fcu.rxrV = true) : Takes true false s (giveRecord s) :=
  ⟨by simp, by simp [hv], by simp⟩

theorem takes_giveAck {s : State} (hv : s.fcu.akrV = true) : Takes false true s (giveAck s) :=
  ⟨by simp, by simp, by simp [hv]⟩

/-- A record take and then an ack take. -/
theorem Takes.record_then_ack {rec ack : Bool} {s m t : State} (h₁ : Takes rec false s m) (h₂ : Takes false ack m t) :
    Takes rec ack s t :=
  ⟨by simp [h₂.fcu, h₁.fcu], by simp [h₂.records, h₁.records], by simp [h₂.acks, h₁.acks, h₁.fcu]⟩

/-- An ack take and then a record take. -/
theorem Takes.ack_then_record {rec ack : Bool} {s m t : State} (h₁ : Takes false ack s m) (h₂ : Takes rec false m t) :
    Takes rec ack s t :=
  ⟨by simp [h₂.fcu, h₁.fcu], by simp [h₂.records, h₁.records, h₁.fcu], by simp [h₂.acks, h₁.acks]⟩

/-- What the takes do depends on the state's block and on what the host has taken, not on how the state came about. -/
theorem Takes.of_none {rec ack : Bool} {s m t : State} (h₁ : Takes false false s m) (h₂ : Takes rec ack m t) :
    Takes rec ack s t :=
  ⟨by simp [h₂.fcu, h₁.fcu], by simp [h₂.records, h₁.records, h₁.fcu], by simp [h₂.acks, h₁.acks, h₁.fcu]⟩

/-- Taking an action off the list takes nothing from the block. -/
theorem takes_script (s : State) (rest : List HostAction) : Takes false false s { s with script := rest } :=
  Takes.none rfl rfl rfl

/-- Showing the ports takes nothing from the block. -/
theorem takes_observe (p : Pins) (s : State) : Takes false false s (observe p s) :=
  Takes.none rfl (recordsTaken_observe p s) (acksTaken_observe p s)

theorem takes_takeRec {s t : State} (h : takeRec s = .next t) : Takes true false s t := by
  obtain ⟨hv, rfl⟩ | ⟨hv, rfl⟩ := takeRec_cases h
  · exact takes_giveRecord hv
  · exact Takes.record_of_empty hv (Takes.none rfl (recordsTaken_held ..) (acksTaken_held ..))

theorem takes_takeAck {s t : State} (h : takeAck s = .next t) : Takes false true s t := by
  obtain ⟨hv, rfl⟩ | ⟨hv, rfl⟩ := takeAck_cases h
  · exact takes_giveAck hv
  · exact Takes.ack_of_empty hv (Takes.none rfl (recordsTaken_held ..) (acksTaken_held ..))

theorem step_takeRec {s : State} {rest : List HostAction} (h : s.script = .takeRec :: rest) :
    ∃ t, step s = .next t ∧ t.script = rest ∧ Takes true false s t := by
  obtain ⟨t, ht, hscript⟩ := takeRec_completes { s with script := rest }
  exact ⟨t, (step_cons h).trans ht, hscript, (takes_script s rest).of_none (takes_takeRec ht)⟩

theorem step_takeAck {s : State} {rest : List HostAction} (h : s.script = .takeAck :: rest) :
    ∃ t, step s = .next t ∧ t.script = rest ∧ Takes false true s t := by
  obtain ⟨t, ht, hscript⟩ := takeAck_completes { s with script := rest }
  exact ⟨t, (step_cons h).trans ht, hscript, (takes_script s rest).of_none (takes_takeAck ht)⟩

theorem run_takeRec_takeAck {s : State} {rest : List HostAction} (h : s.script = .takeRec :: .takeAck :: rest) :
    ∃ t, Host.Core.run Sys2Proof.core 2 s = .next t ∧ t.script = rest ∧ Takes true true s t := by
  obtain ⟨m, hm, hmscript, hmtakes⟩ := step_takeRec h
  obtain ⟨t, ht, htscript, httakes⟩ := step_takeAck hmscript
  exact ⟨t, run_two hm ht, htscript, hmtakes.record_then_ack httakes⟩

theorem run_takeAck_takeRec {s : State} {rest : List HostAction} (h : s.script = .takeAck :: .takeRec :: rest) :
    ∃ t, Host.Core.run Sys2Proof.core 2 s = .next t ∧ t.script = rest ∧ Takes true true s t := by
  obtain ⟨m, hm, hmscript, hmtakes⟩ := step_takeAck h
  obtain ⟨t, ht, htscript, httakes⟩ := step_takeRec hmscript
  exact ⟨t, run_two hm ht, htscript, hmtakes.ack_then_record httakes⟩

/-- Settles O37: either order makes both takes. -/
theorem takesCommute : Obligations.TakesCommute := by
  intro s rest hrec hack
  obtain ⟨t, ht, -, htakes⟩ := run_takeRec_takeAck (s := { s with script := .takeRec :: .takeAck :: rest }) rfl
  obtain ⟨u, hu, -, hutakes⟩ := run_takeAck_takeRec (s := { s with script := .takeAck :: .takeRec :: rest }) rfl
  obtain ⟨hfcu, hrecords, hacks⟩ := (takes_script s _).of_none htakes
  obtain ⟨hufcu, hurecords, huacks⟩ := (takes_script s _).of_none hutakes
  exact ⟨t, u, ht, hu, hfcu.trans hufcu.symm, by simp [hfcu], by simp [hrecords, hrec],
    hurecords.trans hrecords.symm, by simp [hacks, hack], huacks.trans hacks.symm⟩

/-- Settles O38: the two takes leave both valid bits 0, and give the host what waited. -/
theorem takesLiftEveryHold : Obligations.TakesLiftEveryHold := by
  intro s rest h
  obtain ⟨t, ht, hscript, htakes⟩ := run_takeRec_takeAck h
  exact ⟨t, ht, by simp [rxReady, htakes.fcu], hscript, by simp [htakes.records, recordLedger],
    by simp [htakes.acks, ackLedger]⟩

/-! ## After an error (R88) -/

/-- A commit overwrites `RXN`, `RXR` and `RXR_V`, so it does not depend on them. -/
theorem commitFcu_congr {f g : Fcu} (b : List Byte) (e : Bool) (hrxh : f.rxh = g.rxh) (hakr : f.akr = g.akr)
    (hakrV : f.akrV = g.akrV) : commitFcu b e f = commitFcu b e g := by
  simp [commitFcu, commitRecord, ackGen, hrxh, hakr, hakrV]

/-- The commit of a buffer that is no frame makes no ack frame. -/
theorem commitFcu_of_error {b : List Byte} (e : Bool) (f : Fcu) (h : (decodeBuffer b).err ≠ 0#2) :
    commitFcu b e f = commitRecord (decodeBuffer b) f :=
  if_neg fun htrig => h htrig.1

/-- Settles O39: the error record's take leaves a block that differs only where the next commit writes. -/
theorem anErrorRecordLeavesNoTrace : Obligations.AnErrorRecordLeavesNoTrace := by
  intro s bad B e e' rest hrec hack hbad
  have hr : rxReady s.fcu = true := (rxReady_iff s.fcu).mpr ⟨hrec, hack⟩
  have herr := step_buffer_ready (b := bad) (e := e)
    (s := { s with script := .stimulus (.buffer bad e) :: .takeRec :: .stimulus (.buffer B e') :: rest }) rfl hr
  rw [commitFcu_of_error e _ hbad] at herr
  have htake := step_takeRec_enabled (rest := .stimulus (.buffer B e') :: rest)
    (s := { s with script := .takeRec :: .stimulus (.buffer B e') :: rest
                   fcu := commitRecord (decodeBuffer bad) s.fcu }) rfl rfl
  have hready : rxReady { commitRecord (decodeBuffer bad) s.fcu with rxrV := false } = true :=
    (rxReady_iff _).mpr ⟨rfl, hack⟩
  exact ⟨_, _, run_three herr htake (step_buffer_ready rfl hready), run_one (step_buffer_ready rfl hr),
    commitFcu_congr B e' rfl rfl rfl, rfl, rfl⟩

/-! ## The clock edge -/

/-- Settles O41: the edge is a RESET after the ports were shown, and with `rst` = 1 these are 0. -/
theorem resetWinsAtAClockEdge : Obligations.ResetWinsAtAClockEdge := by
  intro s p rest h hrst
  obtain ⟨hready, hrecord, hack⟩ := outputs_ready_valid_of_reset s hrst
  exact ⟨_, outputs p s, step_edge_of_reset h hrst, rfl, rfl, rfl, rfl, rfl, hready, hrecord, hack,
    outputs_encErr p s, outputs_encFrame p s⟩

/-- A take at an edge is made exactly when its ready is 1; the ports were shown before. -/
theorem takes_edgeTakes (p : Pins) (s : State) : Takes p.rxrReady p.ackReady s (edgeTakes p s) := by
  refine Takes.record_then_ack (m := if p.rxrReady && rxrValid s.fcu then giveRecord s else s) ?record ?ack
  case record =>
    cases hready : p.rxrReady with
    | false => exact Takes.none rfl rfl rfl
    | true =>
      cases hv : s.fcu.rxrV with
      | false => simpa [rxrValid, hv] using Takes.record_of_empty hv (Takes.none rfl rfl rfl)
      | true => simpa [rxrValid, hv] using takes_giveRecord hv
  case ack =>
    have hsame : (if p.rxrReady && rxrValid s.fcu then giveRecord s else s).fcu.akrV = s.fcu.akrV := by
      split <;> rfl
    unfold edgeTakes
    cases hready : p.ackReady with
    | false => exact Takes.none rfl rfl rfl
    | true =>
      cases hv : s.fcu.akrV with
      | false => simpa [ackValid, hv] using Takes.ack_of_empty (hsame.trans hv) (Takes.none rfl rfl rfl)
      | true => simpa [ackValid, hv] using takes_giveAck (hsame.trans hv)

theorem edgeNext_of_transfer {p : Pins} {s : State} (h : p.rxValid = true ∧ rxReady s.fcu = true) :
    edgeNext p s = (observe p s).setFcu
      (if p.rxLast then commitFcu (captured (capture p.rxData s.fcu)) p.ackEn (capture p.rxData s.fcu)
       else capture p.rxData s.fcu) :=
  if_pos (Bool.and_eq_true_iff.mpr h)

theorem takes_edgeNext {p : Pins} {s : State} (h : ¬(p.rxValid = true ∧ rxReady s.fcu = true)) :
    Takes p.rxrReady p.ackReady s (edgeNext p s) := by
  rw [edgeNext, if_neg (Bool.and_eq_true_iff.not.mpr h)]
  exact (takes_observe p s).of_none (takes_edgeTakes p (observe p s))

/-- Settles O42: a transfer is the block of the RX.BYTE step; without one the edge makes the takes. -/
theorem clockEdgeTransfersWhereValidAndReady : Obligations.ClockEdgeTransfersWhereValidAndReady := by
  intro s p rest h hrst
  refine ⟨_, step_edge_of_run h hrst, edgeNext_script .., fun htransfer => ?_, fun hno => ?_⟩
  · rw [edgeNext_of_transfer (s := { s with script := rest }) htransfer]
    cases hlast : p.rxLast with
    | false =>
      exact ⟨_, step_byte_inner rfl htransfer.2, rfl, recordsTaken_observe p s, acksTaken_observe p s⟩
    | true =>
      exact ⟨_, step_byte_last rfl htransfer.2, rfl, recordsTaken_observe p s, acksTaken_observe p s⟩
  · obtain ⟨hfcu, hrec, hack⟩ := (takes_script s rest).of_none (takes_edgeNext hno)
    exact ⟨hfcu, hrec, hack⟩

end Sys2Proof.Proofs
end

section
/-! PROOFS. What one step can do, said once (`step_effect`), and what follows from it: the invariant (O46, O47; R11 to
R14) and, over runs without a reset, the order of the records (O49; R31) and of the ack frames (O50; R82). -/

namespace Sys2Proof.Proofs

open Machine Laws Safety

/-! ## The effect of one step -/

/-- What a step from `s` to `t` did to the block and gave the host: takes, perhaps none; a byte captured; a buffer
committed, into a block `f` whose capture registers may hold one more byte; or a reset. -/
inductive StepEffect (s t : State) : Prop
  | takes {rec ack : Bool} (hcommit : commitOf s = none) (htakes : Takes rec ack s t)
  | captured {d : Byte} (hready : rxReady s.fcu = true) (hcommit : commitOf s = none)
      (hfcu : t.fcu = capture d s.fcu) (hrec : recordsTaken t = recordsTaken s) (hack : acksTaken t = acksTaken s)
  | committed {b : List Byte} {e : Bool} {f : Fcu} (hready : rxReady s.fcu = true)
      (hcommit : commitOf s = some (b, e)) (hakrV : f.akrV = false) (hfcu : t.fcu = commitFcu b e f)
      (hrec : recordsTaken t = recordsTaken s) (hack : acksTaken t = acksTaken s)
  | reset {a : HostAction} {rest : List HostAction} (hscript : s.script = a :: rest) (hreset : resets a = true)
      (hrxrV : t.fcu.rxrV = false) (hakrV : t.fcu.akrV = false)

theorem akrV_of_ready {f : Fcu} (h : rxReady f = true) : f.akrV = false := ((rxReady_iff f).mp h).2

theorem rxrV_of_ready {f : Fcu} (h : rxReady f = true) : f.rxrV = false := ((rxReady_iff f).mp h).1

theorem buffer_effect {s t : State} {b : List Byte} {e : Bool} {rest : List HostAction}
    (hscript : s.script = .stimulus (.buffer b e) :: rest) (h : step s = .next t) : StepEffect s t := by
  cases hr : rxReady s.fcu with
  | false =>
    cases (step_buffer_held hscript hr).symm.trans h
    exact .takes (by simp [commitOf, hscript, hr]) (Takes.none rfl (recordsTaken_held ..) (acksTaken_held ..))
  | true =>
    cases (step_buffer_ready hscript hr).symm.trans h
    exact .committed hr (by simp [commitOf, hscript, hr]) (akrV_of_ready hr) rfl rfl rfl

theorem request_effect {s t : State} {r : Request} {rest : List HostAction}
    (hscript : s.script = .stimulus (.request r) :: rest) (h : step s = .next t) : StepEffect s t := by
  cases (step_request hscript).symm.trans h
  exact .takes (by simp [commitOf, hscript]) (Takes.none rfl (recordsTaken_answer ..) (acksTaken_answer ..))

theorem rxByte_effect {s t : State} {d : Byte} {last e : Bool} {rest : List HostAction}
    (hscript : s.script = .rxByte d last e :: rest) (h : step s = .next t) : StepEffect s t := by
  cases hr : rxReady s.fcu with
  | false =>
    cases (step_byte_held hscript hr).symm.trans h
    exact .takes (by simp [commitOf, hscript, hr]) (Takes.none rfl (recordsTaken_held ..) (acksTaken_held ..))
  | true =>
    cases last with
    | false =>
      cases (step_byte_inner hscript hr).symm.trans h
      exact .captured hr (by simp [commitOf, hscript]) rfl rfl rfl
    | true =>
      cases (step_byte_last hscript hr).symm.trans h
      exact .committed hr (by simp [commitOf, hscript, hr]) (akrV_of_ready (f := capture d s.fcu) hr) rfl rfl rfl

theorem edge_effect {s t : State} {p : Pins} {rest : List HostAction} (hscript : s.script = .edge p :: rest)
    (h : step s = .next t) : StepEffect s t := by
  cases hrst : p.rst with
  | true =>
    cases (step_edge_of_reset hscript hrst).symm.trans h
    exact .reset hscript hrst rfl rfl
  | false =>
    cases (step_edge_of_run hscript hrst).symm.trans h
    by_cases htransfer : p.rxValid = true ∧ rxReady s.fcu = true
    · rw [edgeNext_of_transfer (s := { s with script := rest }) htransfer]
      obtain ⟨hvalid, hr⟩ := htransfer
      cases hlast : p.rxLast with
      | false =>
        exact .captured hr (by simp [commitOf, hscript, hlast]) rfl (recordsTaken_observe p s) (acksTaken_observe p s)
      | true =>
        exact .committed hr (by simp [commitOf, hscript, hlast, hrst, hvalid, hr])
          (akrV_of_ready (f := capture p.rxData s.fcu) hr) rfl (recordsTaken_observe p s) (acksTaken_observe p s)
    · have hcommit : commitOf s = none := by
        simp only [commitOf, hscript]
        refine if_neg fun hall => htransfer ?_
        simp only [Bool.and_eq_true] at hall
        obtain ⟨⟨⟨-, hvalid⟩, hr⟩, -⟩ := hall
        exact ⟨hvalid, hr⟩
      exact .takes hcommit ((takes_script s rest).of_none (takes_edgeNext htransfer))

/-- What one step can do. -/
theorem step_effect {s t : State} (h : step s = .next t) : StepEffect s t := by
  cases hscript : s.script with
  | nil =>
    cases (step_nil hscript).symm.trans h
    exact .takes (by simp [commitOf, hscript]) (Takes.none rfl rfl rfl)
  | cons a rest =>
    cases a with
    | stimulus x =>
      cases x with
      | buffer b e => exact buffer_effect hscript h
      | request r => exact request_effect hscript h
    | rxByte d last e => exact rxByte_effect hscript h
    | takeRec =>
      exact .takes (by simp [commitOf, hscript])
        ((takes_script s rest).of_none (takes_takeRec ((step_cons hscript).symm.trans h)))
    | takeAck =>
      exact .takes (by simp [commitOf, hscript])
        ((takes_script s rest).of_none (takes_takeAck ((step_cons hscript).symm.trans h)))
    | reset =>
      cases (step_reset hscript).symm.trans h
      exact .reset hscript rfl rfl rfl
    | edge p => exact edge_effect hscript h

/-! ## The invariant -/

/-- With nothing waiting the invariant asks nothing. -/
theorem inv_of_nothing_waits {s : State} (hrec : s.fcu.rxrV = false) (hack : s.fcu.akrV = false) : Inv s where
  record h := absurd h (ne_true_of_eq_false hrec)
  ackFrame h := absurd h (ne_true_of_eq_false hack)
  together h := absurd h (ne_true_of_eq_false hrec)
  between h := (h.elim (ne_true_of_eq_false hrec) (ne_true_of_eq_false hack)).elim

/-- Takes change the valid bits only, and only to 0. -/
theorem inv_of_takes {rec ack : Bool} {s t : State} (hs : Inv s) (h : Takes rec ack s t) : Inv t := by
  obtain ⟨hrecord, hackFrame, htogether, hbetween⟩ := hs
  have hrxrV : t.fcu.rxrV = true → s.fcu.rxrV = true := fun hv => by
    rw [h.fcu] at hv
    exact (Bool.and_eq_true_iff.mp hv).1
  have hakrV : t.fcu.akrV = true → s.fcu.akrV = true := fun hv => by
    rw [h.fcu] at hv
    exact (Bool.and_eq_true_iff.mp hv).1
  have hrxr : t.fcu.rxr = s.fcu.rxr := by rw [h.fcu]
  have hakr : t.fcu.akr = s.fcu.akr := by rw [h.fcu]
  have hrxn : t.fcu.rxn = s.fcu.rxn := by rw [h.fcu]
  constructor
  · rw [hrxr]
    exact fun hv => hrecord (hrxrV hv)
  · rw [hakr]
    exact fun hv => hackFrame (hakrV hv)
  · rw [hrxr, hakr]
    exact fun hv hw => htogether (hrxrV hv) (hakrV hw)
  · rw [hrxn]
    exact fun hor => hbetween (hor.imp hrxrV hakrV)

theorem goodAck_encodeAck (v : Seq15) : goodAck (frameWord (encodeAck v).bytes) := by
  rw [goodAck, frameBytes_frameWord, recvOf_encodeAck]

/-- A commit leaves a decoded record, and an ack frame only of a data record's `NRECV`. -/
theorem inv_of_commit {t : State} {b : List Byte} {e : Bool} {f : Fcu} (hakrV : f.akrV = false)
    (hfcu : t.fcu = commitFcu b e f) : Inv t := by
  have hgood := goodRecord_decodeBuffer b
  by_cases htrig : (decodeBuffer b).err = 0#2 ∧ (decodeBuffer b).var = 0b00#2 ∧ e = true
  · obtain ⟨hakr, -⟩ := commitFcu_ack (f := f) htrig
    obtain ⟨-, hvar, -⟩ := htrig
    constructor <;> rw [hfcu]
    · rw [commitFcu_rxr]
      exact fun _ => hgood
    · rw [hakr]
      exact fun _ => goodAck_encodeAck _
    · rw [commitFcu_rxr, hakr]
      exact fun _ _ => ⟨dataShape_of_codes hgood hvar, rfl⟩
    · exact fun _ => commitFcu_rxn b e f
  · obtain ⟨-, hnone⟩ := commitFcu_no_ack (f := f) htrig
    constructor <;> rw [hfcu]
    · rw [commitFcu_rxr]
      exact fun _ => hgood
    · rw [hnone, hakrV]
      exact nofun
    · rw [hnone, hakrV]
      exact fun _ => nofun
    · exact fun _ => commitFcu_rxn b e f

/-- Settles O46: nothing waits at reset. -/
theorem invariantHoldsAtReset : Obligations.InvariantHoldsAtReset := inv_of_nothing_waits rfl rfl

/-- Settles O47: by what the step did. -/
theorem everyStepKeepsTheInvariant : Obligations.EveryStepKeepsTheInvariant := by
  intro s t hs h
  cases step_effect h with
  | takes _ htakes => exact inv_of_takes hs htakes
  | captured hready _ hfcu =>
    exact inv_of_nothing_waits (by rw [hfcu]; exact rxrV_of_ready hready) (by rw [hfcu]; exact akrV_of_ready hready)
  | committed _ _ hakrV hfcu => exact inv_of_commit hakrV hfcu
  | reset _ _ hrxrV hakrV => exact inv_of_nothing_waits hrxrV hakrV

/-! ## The ledgers, step by step -/

/-- A record taken moves from the register to the host; the ledger stays. -/
theorem recordLedger_of_takes {rec ack : Bool} {s t : State} (h : Takes rec ack s t) :
    recordLedger t = recordLedger s := by
  rw [recordLedger, h.records, h.fcu, recordLedger]
  cases rec <;> simp

theorem ackLedger_of_takes {rec ack : Bool} {s t : State} (h : Takes rec ack s t) : ackLedger t = ackLedger s := by
  rw [ackLedger, h.acks, h.fcu, ackLedger]
  cases ack <;> simp

/-- The ack frame due for a commit is that of the record's `NRECV`, when the commit triggers one. -/
theorem ackDue_of_trigger {b : List Byte} {e : Bool}
    (h : (decodeBuffer b).err = 0#2 ∧ (decodeBuffer b).var = 0b00#2 ∧ e = true) :
    ackDue (b, e) = some (frameWord (encodeAck (decodeBuffer b).nrecv).bytes) := by
  obtain ⟨herr, hvar, he⟩ := h
  obtain ⟨-, -, -, hnrecv⟩ := dataShape_of_codes (goodRecord_decodeBuffer b) hvar
  rw [ackDue, if_pos ⟨he, herr, hvar⟩, hnrecv]

theorem ackDue_of_no_trigger {b : List Byte} {e : Bool}
    (h : ¬((decodeBuffer b).err = 0#2 ∧ (decodeBuffer b).var = 0b00#2 ∧ e = true)) : ackDue (b, e) = none :=
  if_neg fun ⟨he, herr, hvar⟩ => h ⟨herr, hvar, he⟩

/-- The ack frame waiting after a commit is the one due. -/
theorem ackWaiting_of_commit {b : List Byte} {e : Bool} {f : Fcu} (hakrV : f.akrV = false) :
    (if (commitFcu b e f).akrV then [(commitFcu b e f).akr] else []) = (ackDue (b, e)).toList := by
  by_cases htrig : (decodeBuffer b).err = 0#2 ∧ (decodeBuffer b).var = 0b00#2 ∧ e = true
  · obtain ⟨hakr, hv⟩ := commitFcu_ack (f := f) htrig
    rw [ackDue_of_trigger htrig, hv, hakr]
    rfl
  · obtain ⟨-, hv⟩ := commitFcu_no_ack (f := f) htrig
    rw [ackDue_of_no_trigger htrig, hv, hakrV]
    rfl

/-- The action the next step takes off the list, if there is one, is no reset. -/
def NextNoReset (s : State) : Prop := ∀ a ∈ s.script.take 1, resets a = false

theorem not_nextNoReset {s : State} {a : HostAction} {rest : List HostAction} (hscript : s.script = a :: rest)
    (hreset : resets a = true) : ¬NextNoReset s := fun h =>
  ne_true_of_eq_false (h a (by simp [hscript])) hreset

/-- One step adds to the records the one of the buffer it commits. -/
theorem recordLedger_step {s t : State} (hno : NextNoReset s) (h : step s = .next t) :
    recordLedger t = recordLedger s ++ (commitOf s).toList.filterMap fun c => some (decodeBuffer c.1) := by
  cases step_effect h with
  | takes hcommit htakes => simp [hcommit, recordLedger_of_takes htakes]
  | captured hready hcommit hfcu hrec => simp [recordLedger, hcommit, hfcu, hrec]
  | committed hready hcommit _ hfcu hrec =>
    rw [recordLedger_of_empty (rxrV_of_ready hready), recordLedger, hrec, hfcu, hcommit]
    simp
  | reset hscript hreset => exact absurd hno (not_nextNoReset hscript hreset)

/-- One step adds to the ack frames the one due for the buffer it commits. -/
theorem ackLedger_step {s t : State} (hno : NextNoReset s) (h : step s = .next t) :
    ackLedger t = ackLedger s ++ (commitOf s).toList.filterMap ackDue := by
  cases step_effect h with
  | takes hcommit htakes => simp [hcommit, ackLedger_of_takes htakes]
  | captured hready hcommit hfcu _ hack => simp [ackLedger, hcommit, hfcu, hack]
  | @committed b e _ hready hcommit hakrV hfcu _ hack =>
    rw [ackLedger_of_empty (akrV_of_ready hready), ackLedger, hack, hfcu, hcommit, ackWaiting_of_commit hakrV]
    cases hdue : ackDue (b, e) <;> simp [hdue]
  | reset hscript hreset => exact absurd hno (not_nextNoReset hscript hreset)

/-! ## The ledgers over a run -/

theorem commits_succ {s m : State} (k : Nat) (h : step s = .next m) :
    commits (k + 1) s = (commitOf s).toList ++ commits k m := by
  rw [commits, h]

/-- A ledger to which each step adds what its commit gives holds, after a run, what all the commits gave, in order. -/
theorem ledger_run {α : Type} {ledger : State → List α} {due : List Byte × Bool → Option α}
    (hstep : ∀ {s t : State}, NextNoReset s → step s = .next t →
      ledger t = ledger s ++ (commitOf s).toList.filterMap due)
    (k : Nat) (s t : State) (hno : ∀ a ∈ s.script.take k, resets a = false)
    (hrun : Host.Core.run Sys2Proof.core k s = .next t) :
    ledger t = ledger s ++ (commits k s).filterMap due := by
  induction k generalizing s with
  | zero =>
    cases hrun
    simp [commits]
  | succ k ih =>
    obtain ⟨m, hm, hscript⟩ := step_completes s
    have hfirst : NextNoReset s := fun a ha =>
      hno a (List.take_subset_take_left s.script (Nat.succ_le_succ (Nat.zero_le k)) ha)
    have hrest : ∀ a ∈ m.script.take k, resets a = false := fun a ha => by
      rw [hscript, ← List.drop_one, List.take_drop, Nat.add_comm] at ha
      exact hno a (List.mem_of_mem_drop ha)
    calc ledger t = ledger m ++ (commits k m).filterMap due := ih m hrest ((run_succ k hm).symm.trans hrun)
      _ = ledger s ++ (commitOf s).toList.filterMap due ++ (commits k m).filterMap due := by rw [hstep hfirst hm]
      _ = ledger s ++ (commits (k + 1) s).filterMap due := by
        rw [commits_succ k hm, List.filterMap_append, List.append_assoc]

/-- Settles O49: each step adds the record of its commit, so by induction on the number of steps a run adds all. -/
theorem recordsFollowTheBuffersInOrder : Obligations.RecordsFollowTheBuffersInOrder := by
  intro k s t hno hrun
  rw [ledger_run recordLedger_step k s t hno hrun, List.filterMap_eq_map']

/-- Settles O50: as for the records, with the ack frame due for each commit. -/
theorem ackFramesFollowTheDataFramesInOrder : Obligations.AckFramesFollowTheDataFramesInOrder :=
  ledger_run ackLedger_step

end Sys2Proof.Proofs
end

section
/-! PROOFS. The byte level and the buffer level agree (O43; R64, R65): the bytes before the last are captured one after
the other, of which the first six are kept, and the last one commits what was captured. -/

namespace Sys2Proof.Proofs

open Machine Laws Safety

/-! ## Capturing several bytes -/

/-- The block after the bytes of a list were captured, in order. -/
def captureAll (ds : List Byte) (f : Fcu) : Fcu := ds.foldl (fun g d => capture d g) f

@[simp] theorem captureAll_nil (f : Fcu) : captureAll [] f = f := rfl

@[simp] theorem captureAll_cons (d : Byte) (ds : List Byte) (f : Fcu) :
    captureAll (d :: ds) f = captureAll ds (capture d f) := rfl

theorem captureAll_snoc (ds : List Byte) (d : Byte) (f : Fcu) :
    captureAll (ds ++ [d]) f = capture d (captureAll ds f) := by
  simp [captureAll]

/-- Capturing leaves the outputs. -/
theorem captureAll_outputs (ds : List Byte) (f : Fcu) :
    (captureAll ds f).rxrV = f.rxrV ∧ (captureAll ds f).akr = f.akr ∧ (captureAll ds f).akrV = f.akrV := by
  induction ds generalizing f with
  | nil => exact ⟨rfl, rfl, rfl⟩
  | cons d ds ih => exact ih (capture d f)

/-- `RXN` counts the bytes and saturates at 6 (R11). -/
theorem captureAll_rxn (ds : List Byte) (f : Fcu) :
    (captureAll ds f).rxn.val = min (f.rxn.val + ds.length) 6 := by
  induction ds generalizing f with
  | nil =>
    simp only [captureAll_nil, List.length_nil]
    omega
  | cons d ds ih =>
    rw [captureAll_cons, ih, capture_rxn, List.length_cons]
    omega

theorem captured_length (f : Fcu) : (captured f).length = f.rxn.val := by
  rw [captured, List.length_take, headerBytes_length]
  omega

/-- One more byte is kept while there are fewer than six. -/
theorem captured_capture_eq_take (d : Byte) (f : Fcu) : captured (capture d f) = (captured f ++ [d]).take 6 := by
  have hlen := captured_length f
  rw [captured_capture]
  split
  · rw [List.take_of_length_le (by rw [List.length_append, List.length_singleton]; omega)]
  · rw [List.take_left' (by omega)]

/-- Cutting a list short before more is appended does not change what the cut keeps. -/
theorem take_append_take {α : Type} (n : Nat) (l₁ l₂ : List α) : (l₁.take n ++ l₂).take n = (l₁ ++ l₂).take n := by
  rw [List.take_append, List.take_append, List.take_take, Nat.min_self, List.length_take]
  congr 2
  omega

/-- The first six bytes are kept. -/
theorem captured_captureAll (ds : List Byte) (f : Fcu) :
    captured (captureAll ds f) = (captured f ++ ds).take 6 := by
  induction ds generalizing f with
  | nil =>
    have hlen := captured_length f
    rw [captureAll_nil, List.append_nil, List.take_of_length_le (by omega)]
  | cons d ds ih =>
    rw [captureAll_cons, ih, captured_capture_eq_take, take_append_take, List.append_assoc, List.singleton_append]

/-! ## The byte steps -/

/-- The byte steps before the last. -/
def innerBytes (front : List (Byte × Bool)) : List HostAction := front.map fun x => .rxByte x.1 false x.2

/-- With nothing waiting, as many steps as there are inner bytes capture them all. -/
theorem run_innerBytes (front : List (Byte × Bool)) {s : State} {more : List HostAction}
    (hr : rxReady s.fcu = true) (hscript : s.script = innerBytes front ++ more) :
    Host.Core.run Sys2Proof.core front.length s =
      .next { s with script := more, fcu := captureAll (front.map Prod.fst) s.fcu } := by
  induction front generalizing s with
  | nil =>
    rw [show more = s.script from hscript.symm]
    rfl
  | cons x front ih => exact (run_succ _ (step_byte_inner hscript hr)).trans (ih hr rfl)

theorem byteActions_eq_innerBytes (front : List (Byte × Bool)) (k : Nat) (lastByte : Byte) (e : Bool)
    (rest : List HostAction) :
    byteActions front lastByte e ++ rest =
      innerBytes (front.take k) ++ (innerBytes (front.drop k) ++ .rxByte lastByte true e :: rest) := by
  rw [← List.append_assoc, innerBytes, innerBytes, ← List.map_append, List.take_append_drop, byteActions,
    List.append_assoc, List.singleton_append]

/-! ## The commit of the captured bytes -/

/-- Only the first six bytes of a buffer matter to its commit. -/
theorem commitFcu_take_six (b : List Byte) (e : Bool) (f : Fcu) : commitFcu (b.take 6) e f = commitFcu b e f := by
  simp only [commitFcu, decodeBuffer_take_six]

theorem commitFcu_ack_congr {f g : Fcu} (b : List Byte) (e : Bool) (hakr : f.akr = g.akr) (hakrV : f.akrV = g.akrV) :
    (commitFcu b e f).akr = (commitFcu b e g).akr ∧ (commitFcu b e f).akrV = (commitFcu b e g).akrV := by
  unfold commitFcu
  split
  · exact ⟨rfl, rfl⟩
  · exact ⟨hakr, hakrV⟩

section Levels

variable {s : State} {front : List (Byte × Bool)} {lastByte : Byte} {e : Bool} {rest : List HostAction}

/-- All the byte steps of a buffer, from a state between buffers with nothing waiting. -/
theorem run_byteActions (hrxn : s.fcu.rxn = 0) (hr : rxReady s.fcu = true)
    (hscript : s.script = byteActions front lastByte e ++ rest) :
    Host.Core.run Sys2Proof.core (front.length + 1) s =
      .next { s with
        script := rest
        fcu := commitFcu (front.map Prod.fst ++ [lastByte]) e
          (captureAll (front.map Prod.fst ++ [lastByte]) s.fcu) } := by
  have hinner := run_innerBytes (more := .rxByte lastByte true e :: rest) front hr
    (by rw [hscript, byteActions_eq_innerBytes front front.length, List.take_length, List.drop_length]; rfl)
  have hready : rxReady (captureAll (front.map Prod.fst) s.fcu) = true := by
    obtain ⟨hrec, -, hack⟩ := captureAll_outputs (front.map Prod.fst) s.fcu
    rw [rxReady, hrec, hack]
    exact hr
  rw [run_add hinner, run_one (step_byte_last rfl hready), ← captureAll_snoc, captured_captureAll,
    captured_of_rxn_zero hrxn, List.nil_append, commitFcu_take_six]

/-- The block after k of the bytes before the last. -/
theorem run_some_bytes (hrxn : s.fcu.rxn = 0) (hr : rxReady s.fcu = true)
    (hscript : s.script = byteActions front lastByte e ++ rest) {k : Nat} (hk : k ≤ front.length) :
    ∃ m : State, Host.Core.run Sys2Proof.core k s = .next m ∧ m.fcu.rxrV = false ∧ m.fcu.akrV = false ∧
      m.fcu.rxn.val = min k 6 ∧ captured m.fcu = (front.map Prod.fst).take (min k 6) := by
  have hrun := run_innerBytes (front.take k) hr (hscript.trans (byteActions_eq_innerBytes front k lastByte e rest))
  rw [List.length_take_of_le hk] at hrun
  obtain ⟨hrec, -, hack⟩ := captureAll_outputs ((front.take k).map Prod.fst) s.fcu
  refine ⟨_, hrun, hrec.trans (rxrV_of_ready hr), hack.trans (akrV_of_ready hr), ?_, ?_⟩
  · rw [captureAll_rxn, hrxn, List.length_map, List.length_take_of_le hk]
    simp
  · rw [captured_captureAll, captured_of_rxn_zero hrxn, List.nil_append, List.map_take, List.take_take, Nat.min_comm]

end Levels

/-- Settles O43: both levels commit the same bytes, the byte level from a block with other capture registers, which no
output of the commit depends on. -/
theorem byteStepsAgreeWithTheBufferStep : Obligations.ByteStepsAgreeWithTheBufferStep := by
  intro s front lastByte e rest hrxn hrec hack hscript
  have hr : rxReady s.fcu = true := (rxReady_iff s.fcu).mpr ⟨hrec, hack⟩
  refine ⟨?levels, fun k hk => ?between⟩
  case levels =>
    obtain ⟨-, hakr, hakrV⟩ := captureAll_outputs (front.map Prod.fst ++ [lastByte]) s.fcu
    obtain ⟨hakr', hakrV'⟩ := commitFcu_ack_congr (front.map Prod.fst ++ [lastByte]) e hakr hakrV
    exact ⟨_, _, run_byteActions hrxn hr hscript, step_buffer_ready rfl hr,
      (commitFcu_rxn ..).trans (commitFcu_rxn ..).symm, (commitFcu_rxr ..).trans (commitFcu_rxr ..).symm,
      (commitFcu_rxrV ..).trans (commitFcu_rxrV ..).symm, hakr', hakrV', rfl, rfl, rfl, rfl⟩
  case between =>
    obtain ⟨m, hrun, hmrec, hmack, hmrxn, hmcaptured⟩ := run_some_bytes hrxn hr hscript hk
    exact ⟨m, hrun, hmrec, hmack, hmrxn, hmcaptured, fun r => ⟨_, step_request rfl, rfl, rfl⟩⟩

end Sys2Proof.Proofs
end
